-- ==== Sys2Proof/Word.lean ====
section
/-! DEFINITION. The word types of the block: a 32-bit word (buffer address, transfer length, byte cursor, baud rate and
operand word, R7: AW = LW = BW = 32) and the 8-bit byte moved per interrupt (R26). Everything is unsigned (R10). -/

namespace Sys2Proof

/-- A 32-bit unsigned number: `AW`, `LW` and `BW` of R7, and the word of a packet (R81). -/
abbrev Word := BitVec 32

/-- The unit of transfer, 8 data bits (R7, R26). -/
abbrev Byte := BitVec 8

/-- A channel identifier as it stands in a packet, `W0[23:16]` (R82): any of 0 to 255, known or not. -/
abbrev ChanId := BitVec 8

end Sys2Proof
end

