-- ==== Sys2Proof/Config.lean ====
section
/-! DEFINITION. What the implementation fixes (R7) and the free values: the channel set, the fixed format policy, the open
interrupt priority and vectors, and the draw of a receiver overrun. The opaque constants have no body: no proof can see
what they are. The open predicates `Adm` and `BaudOK` of R7 are launch parameters and stand in State (log 2, log 7). -/

namespace Sys2Proof

/-- The closed, compile-time-known channel set (R7, D1): `Channel1` and `Channel2`. -/
inductive Chan where
  | ch1
  | ch2
  deriving DecidableEq, Repr

/-- One of the two independent transfer directions of a channel (R11). -/
inductive Dir where
  | tx
  | rx
  deriving DecidableEq, Repr

/-- Parity of the fixed format policy (R26). -/
inductive Parity where
  | none
  | even
  | odd
  deriving DecidableEq, Repr

/-- Hardware flow control of the fixed format policy (R26). -/
inductive FlowControl where
  | none
  | rtsCts
  deriving DecidableEq, Repr

/-- The word-format policy `FMT` of R26. -/
structure Format where
  wordLength   : Nat
  parity       : Parity
  stopBits     : Nat
  flowControl  : FlowControl
  oversampling : Nat
  deriving DecidableEq, Repr

namespace Config

/-- `NCH`, the number of channels (R7, D1). -/
def nch : Nat := 2

/-- The number of addresses of the data memory, `2^AW` with `AW` = 32 (R60). -/
def addressSpace : Nat := 2 ^ 32

/-- `FMT`: 8 data bits, no parity, 1 stop bit, no hardware flow control, 16x oversampling; the same for every channel
and writable by no command (R26). -/
def fmt : Format :=
  { wordLength := 8, parity := .none, stopBits := 1, flowControl := .none, oversampling := 16 }

/-- `IRQ_PRIO`, the fixed priority every vector is registered at; its value is open (R28, D28). Free (log 9). -/
opaque irqPrio : Nat

/-- The lower of the two vector numbers, open (R7, D28). Free (log 9). -/
opaque vectorLow : Nat

/-- How far the higher vector number lies above the lower one, less 1. Free (log 9). -/
opaque vectorGap : Nat

/-- Whether `Channel1` has the higher vector number. Free (log 9). -/
opaque vectorSwap : Bool

/-- `VEC(c)`, the vector number of channel `c`: open, distinct per channel (R7, R171). Any two distinct numbers are of
this form, so nothing but injectivity is fixed (log 9). -/
def vec (c : Chan) : Nat :=
  if (c == .ch1) == vectorSwap then vectorLow + 1 + vectorGap else vectorLow

/-- The draw of an overrun (R137, D17): whether the byte already in `RDR` survives in the n-th draw of a run. Free: a
statement holds for both answers (log 8). -/
opaque overrunKeepsOld : Nat → Bool

end Config

end Sys2Proof
end

