-- ==== Sys2Proof/Syntax.lean ====
section
/-! DEFINITION. The abstract terms of the spec: the packet (R81), the fourteen rows of the opcode table as one inductive
(the seven commands of R80, the six events and the host statement of R89), which kind each is, and the assembler's
source lines (R90, R92). Channel identifiers stay the 8-bit numbers of the packet: one outside the closed set decodes and
is a configuration error only when the command executes (R87, R88). -/

namespace Sys2Proof

/-- A packet: exactly three 32-bit words, a value on a port and not bytes in memory (R81). -/
structure Packet where
  w0 : Word
  w1 : Word
  w2 : Word
  deriving DecidableEq, Repr

/-- One constructor per row of the opcode table. `initialise` is the table's `initialize` (the table's spelling is a word
of the Lean language that no file may hold, log 15). -/
inductive Instr where
  /-- `initialize(c, baud)`, R100. -/
  | initialise (ch : ChanId) (baud : Word)
  /-- `send(c, ptr, len)`, R110. -/
  | send (ch : ChanId) (ptr len : Word)
  /-- `receive(c, ptr, len)`, R116. -/
  | receive (ch : ChanId) (ptr len : Word)
  /-- `isSendComplete(c)`, R125. -/
  | isSendComplete (ch : ChanId)
  /-- `isReceiveComplete(c)`, R126. -/
  | isReceiveComplete (ch : ChanId)
  /-- `abortSend(c)`, R130. -/
  | abortSend (ch : ChanId)
  /-- `abortReceive(c)`, R131. -/
  | abortReceive (ch : ChanId)
  /-- `TxEmit(c)`, R135. -/
  | txEmit (ch : ChanId)
  /-- `RxArrive(c, b)`, R137. -/
  | rxArrive (ch : ChanId) (byte : Byte)
  /-- `IrqTC(c)`, R174. -/
  | irqTC (ch : ChanId)
  /-- `IrqRXNE(c)`, R175. -/
  | irqRXNE (ch : ChanId)
  /-- `ForceTxCplt(c)`, R139. -/
  | forceTxCplt (ch : ChanId)
  /-- `ForceRxCplt(c)`, R140. -/
  | forceRxCplt (ch : ChanId)
  /-- `brz target`, R127. -/
  | brz (target : Word)
  deriving DecidableEq, Repr

/-- The three formats of the opcode table: command (R84), stimulus event and host statement (R89). -/
inductive RowFormat where
  | command
  | event
  | host
  deriving DecidableEq, Repr

/-- Which of the three a term is. -/
def Instr.format : Instr → RowFormat
  | .initialise _ _ => .command
  | .send _ _ _ => .command
  | .receive _ _ _ => .command
  | .isSendComplete _ => .command
  | .isReceiveComplete _ => .command
  | .abortSend _ => .command
  | .abortReceive _ => .command
  | .txEmit _ => .event
  | .rxArrive _ _ => .event
  | .irqTC _ => .event
  | .irqRXNE _ => .event
  | .forceTxCplt _ => .event
  | .forceRxCplt _ => .event
  | .brz _ => .host

/-- The channel field a term carries; `brz` has none (R89). -/
def Instr.channel : Instr → Option ChanId
  | .initialise ch _ => some ch
  | .send ch _ _ => some ch
  | .receive ch _ _ => some ch
  | .isSendComplete ch => some ch
  | .isReceiveComplete ch => some ch
  | .abortSend ch => some ch
  | .abortReceive ch => some ch
  | .txEmit ch => some ch
  | .rxArrive ch _ => some ch
  | .irqTC ch => some ch
  | .irqRXNE ch => some ch
  | .forceTxCplt ch => some ch
  | .forceRxCplt ch => some ch
  | .brz _ => none

/-- Who executes a term (R8, R181): software in task context, software in interrupt context, the datapath hardware, or,
for the forced events, a test's stimulus that stands for the interrupt logic (R139, R141). -/
inductive Context where
  | task
  | interrupt
  | datapath
  | stimulus
  deriving DecidableEq, Repr

/-- The context a term runs in (R110, R125, R130, R135, R137, R139, R174, R175, R181). -/
def Instr.context : Instr → Context
  | .initialise _ _ => .task
  | .send _ _ _ => .task
  | .receive _ _ _ => .task
  | .isSendComplete _ => .task
  | .isReceiveComplete _ => .task
  | .abortSend _ => .task
  | .abortReceive _ => .task
  | .txEmit _ => .datapath
  | .rxArrive _ _ => .datapath
  | .irqTC _ => .interrupt
  | .irqRXNE _ => .interrupt
  | .forceTxCplt _ => .stimulus
  | .forceRxCplt _ => .stimulus
  | .brz _ => .task

/-- A source line of a task program (R90, R92): a label, a plain statement, a branch to a label, or one of the two
pseudo-statements. -/
inductive AsmLine where
  | label (name : String)
  | stmt (i : Instr)
  | brzTo (name : String)
  | waitSend (ch : ChanId)
  | waitReceive (ch : ChanId)
  deriving DecidableEq, Repr

end Sys2Proof
end

