-- ==== Sys2Proof/WellFormed.lean ====
section
/-! DEFINITION. Which terms a well-formed stimulus may hold. A command with any channel identifier is well formed as an
encoding (an unknown one is the configuration error F_CONFIG when it executes, R87), and every operand has the width of its
field. One check is left: an event whose channel is outside the closed set makes the stimulus file malformed (R89). -/

namespace Sys2Proof

/-- The channel identifiers of the closed set, `0 .. NCH-1` (R23, R87). -/
def ChanId.known (ch : ChanId) : Bool := decide (ch.toNat < Config.nch)

/-- R89: the channel of an event is one of the closed set. -/
def Instr.wellFormed : Instr → Bool
  | .initialise _ _ => true
  | .send _ _ _ => true
  | .receive _ _ _ => true
  | .isSendComplete _ => true
  | .isReceiveComplete _ => true
  | .abortSend _ => true
  | .abortReceive _ => true
  | .txEmit ch => ChanId.known ch
  | .rxArrive ch _ => ChanId.known ch
  | .irqTC ch => ChanId.known ch
  | .irqRXNE ch => ChanId.known ch
  | .forceTxCplt ch => ChanId.known ch
  | .forceRxCplt ch => ChanId.known ch
  | .brz _ => true

end Sys2Proof
end

