-- ==== Sys2Proof/Decode.lean ====
section
/-! DEFINITION. Decoding a packet (R82 to R89), total, rejecting by name; the ports that accept only part of the terms (the
command port, R84 and R86; a task program's statement, R44 and R89; a schedule's event line, R89 and R91); the encoder,
written from the same tables; and the opcode table's match and mask rows. A packet is a value on a port and has no byte
order (R81), so the decoder reads words and there are no bytes to lay out. -/

namespace Sys2Proof

/-- Why a packet is rejected. -/
inductive Reject where
  /-- `W0[15:0]` is not 0 (R86). -/
  | reservedBits (rsv : BitVec 16)
  /-- `W0[31:24]` is no opcode of R84 or R89. -/
  | reservedOpcode (op : BitVec 8)
  /-- `brz` with a channel field other than 0 (R89: its mask is all ones). -/
  | brzChannel (ch : ChanId)
  /-- An opcode that this port does not accept (R84, R89). -/
  | wrongPort (op : BitVec 8)
  deriving DecidableEq, Repr

/-- `op` = `W0[31:24]` (R82). -/
def Packet.op (p : Packet) : BitVec 8 := p.w0.extractLsb' 24 8

/-- `ch` = `W0[23:16]` (R82). -/
def Packet.ch (p : Packet) : ChanId := p.w0.extractLsb' 16 8

/-- `rsv` = `W0[15:0]` (R82). -/
def Packet.rsv (p : Packet) : BitVec 16 := p.w0.extractLsb' 0 16

/-- The byte of `!rxarrive`, `W1[7:0]` (R89). -/
def Packet.byte (p : Packet) : Byte := p.w1.setWidth 8

/-- The opcode column of R84 and R89. -/
def Instr.opcode : Instr → BitVec 8
  | .initialise _ _ => 0x01
  | .send _ _ _ => 0x02
  | .receive _ _ _ => 0x03
  | .isSendComplete _ => 0x04
  | .isReceiveComplete _ => 0x05
  | .abortSend _ => 0x06
  | .abortReceive _ => 0x07
  | .txEmit _ => 0x10
  | .rxArrive _ _ => 0x11
  | .irqTC _ => 0x12
  | .irqRXNE _ => 0x13
  | .forceTxCplt _ => 0x14
  | .forceRxCplt _ => 0x15
  | .brz _ => 0x20

/-- Decoding of all fourteen rows (R82, R83, R84, R89). Unused operand words are ignored (R83). -/
def decode (p : Packet) : Except Reject Instr :=
  if p.rsv ≠ 0 then .error (.reservedBits p.rsv)
  else if p.op = 0x01 then .ok (.initialise p.ch p.w1)
  else if p.op = 0x02 then .ok (.send p.ch p.w1 p.w2)
  else if p.op = 0x03 then .ok (.receive p.ch p.w1 p.w2)
  else if p.op = 0x04 then .ok (.isSendComplete p.ch)
  else if p.op = 0x05 then .ok (.isReceiveComplete p.ch)
  else if p.op = 0x06 then .ok (.abortSend p.ch)
  else if p.op = 0x07 then .ok (.abortReceive p.ch)
  else if p.op = 0x10 then .ok (.txEmit p.ch)
  else if p.op = 0x11 then .ok (.rxArrive p.ch p.byte)
  else if p.op = 0x12 then .ok (.irqTC p.ch)
  else if p.op = 0x13 then .ok (.irqRXNE p.ch)
  else if p.op = 0x14 then .ok (.forceTxCplt p.ch)
  else if p.op = 0x15 then .ok (.forceRxCplt p.ch)
  else if p.op = 0x20 then (if p.ch = 0 then .ok (.brz p.w1) else .error (.brzChannel p.ch))
  else .error (.reservedOpcode p.op)

/-- A port that accepts only the terms `accept` allows; every other opcode is reserved there. -/
def decodeOn (accept : Instr → Bool) (p : Packet) : Except Reject Instr :=
  match decode p with
  | .error e => .error e
  | .ok i => if accept i then .ok i else .error (.wrongPort p.op)

/-- The command port accepts a term. -/
def Instr.isCommand (i : Instr) : Bool := i.format == .command

/-- A schedule's event line accepts a term. -/
def Instr.isEvent (i : Instr) : Bool := i.format == .event

/-- A task program accepts a term: the seven commands and `brz` (R44). -/
def Instr.isStatement (i : Instr) : Bool := !i.isEvent

/-- The command port's decoder, `decode(W0, W1, W2)` of R88: an error is the spec's `illegal` (R86). -/
def decodeCommand (p : Packet) : Except Reject Instr := decodeOn Instr.isCommand p

/-- A statement of a task program: a command, or the host statement `brz` (R44, R89). -/
def decodeStatement (p : Packet) : Except Reject Instr := decodeOn Instr.isStatement p

/-- An event line of a schedule (R89, R91). -/
def decodeEvent (p : Packet) : Except Reject Instr := decodeOn Instr.isEvent p

/-- The header word with opcode `op`, channel `ch` and reserved bits 0 (R82). -/
def headerWord (op : BitVec 8) (ch : ChanId) : Word := op.setWidth 32 <<< 24 ||| ch.setWidth 32 <<< 16

/-- The encoder: the words of a term, with 0 in every word the term does not use (R93). -/
def encode : Instr → Packet
  | .initialise ch baud => ⟨headerWord 0x01 ch, baud, 0⟩
  | .send ch ptr len => ⟨headerWord 0x02 ch, ptr, len⟩
  | .receive ch ptr len => ⟨headerWord 0x03 ch, ptr, len⟩
  | .isSendComplete ch => ⟨headerWord 0x04 ch, 0, 0⟩
  | .isReceiveComplete ch => ⟨headerWord 0x05 ch, 0, 0⟩
  | .abortSend ch => ⟨headerWord 0x06 ch, 0, 0⟩
  | .abortReceive ch => ⟨headerWord 0x07 ch, 0, 0⟩
  | .txEmit ch => ⟨headerWord 0x10 ch, 0, 0⟩
  | .rxArrive ch byte => ⟨headerWord 0x11 ch, byte.setWidth 32, 0⟩
  | .irqTC ch => ⟨headerWord 0x12 ch, 0, 0⟩
  | .irqRXNE ch => ⟨headerWord 0x13 ch, 0, 0⟩
  | .forceTxCplt ch => ⟨headerWord 0x14 ch, 0, 0⟩
  | .forceRxCplt ch => ⟨headerWord 0x15 ch, 0, 0⟩
  | .brz target => ⟨headerWord 0x20 0, target, 0⟩

/-- The `match` column of the opcode table, `op << 24` (R84, R89). -/
def Instr.matchBits (i : Instr) : Word := i.opcode.setWidth 32 <<< 24

/-- The `mask` column of the opcode table, applied to `W0`: opcode and reserved field, and for `brz` the channel field
too (R84, R89). -/
def Instr.mask (i : Instr) : Word :=
  match i.format with
  | .command => 0xFF00FFFF
  | .event => 0xFF00FFFF
  | .host => 0xFFFFFFFF

/-- The packet whose bits are `w`, numbered as the opcode table numbers them: bit 0 is the least significant bit of
`W0`, bit 32 of `W1`, bit 64 of `W2`; every bit from `nbits` up is 0. -/
def packetOfTableWord (nbits w : Nat) : Packet :=
  let v : BitVec 96 := BitVec.ofNat 96 (w % 2 ^ nbits)
  ⟨v.extractLsb' 0 32, v.extractLsb' 32 32, v.extractLsb' 64 32⟩

/-- What the decoder reads from the packet whose bits are `w` (the host's question). -/
def decodeTableWord (nbits w : Nat) : Option Instr :=
  match decode (packetOfTableWord nbits w) with
  | .ok i => some i
  | .error _ => none

end Sys2Proof
end

