-- ==== Sys2Proof/Machine/State.lean ====
section
/-! DEFINITION. The state of the block, the task agent and the ghost state (10_state.md), as plain data; the fault kinds and
records (R160); the ghost events (R47); the lines of a schedule (R91); the outcomes a step can stop with; and the state at
reset (R52). Fields that are the model's own, not the spec's, say so. -/

namespace Sys2Proof.Machine

/-- One transfer engine of a channel: `RUN`, `PTR`, `LEN`, `CUR` of one direction (R34, R35). -/
structure Engine where
  /-- 1 while the hardware is engaged in a transfer. -/
  run : Bool
  /-- Address of byte 0 of the caller's buffer. -/
  ptr : Word
  /-- Number of bytes of the transfer. -/
  len : Word
  /-- The byte cursor. -/
  cur : Word
  deriving DecidableEq, Repr

/-- A channel's slot in the Registry (R23): every element indexed `[c]`, with the two ghost elements `TXLINE[c]`, `OVR[c]`. -/
structure ChanState where
  /-- `INITED[c]` (R24). -/
  inited : Bool
  /-- `IE_RXNE[c]` (R27). -/
  ieRxne : Bool
  /-- `IE_TC[c]` (R27). -/
  ieTc : Bool
  /-- `VEN[c]` (R28). -/
  ven : Bool
  /-- `PRIO[c]`, width unspecified (R28). -/
  prio : Nat
  /-- `BAUD[c]` (R25). -/
  baud : Word
  /-- `TXBUSY[c]`, bit 0 of `FLAGS[c]` (R29). -/
  txBusy : Bool
  /-- `RXBUSY[c]`, bit 1 of `FLAGS[c]` (R29). -/
  rxBusy : Bool
  /-- `TX_RUN`, `TX_PTR`, `TX_LEN`, `TX_CUR` (R34). -/
  tx : Engine
  /-- `RX_RUN`, `RX_PTR`, `RX_LEN`, `RX_CUR` (R35). -/
  rx : Engine
  /-- `TC[c]`, the pending transfer-complete event (R36). -/
  tc : Bool
  /-- `RXNE[c]`, the pending receive-register-not-empty event (R37). -/
  rxne : Bool
  /-- `RDR[c]`, the byte that arrived (R37). -/
  rdr : Byte
  /-- Ghost `TXLINE[c]`: every byte handed to the line, in order (R48). -/
  txLine : List Byte
  /-- Ghost `OVR[c]`: a received byte was lost (R50). -/
  ovr : Bool
  deriving DecidableEq, Repr

/-- The seven fault kinds of R160. -/
inductive FaultKind where
  | config
  | illegal
  | uninit
  | reinit
  | badBaud
  | badLen
  | badBuf
  deriving DecidableEq, Repr

/-- What `FAULT` holds when it is not `none`: a kind with its recorded info (R38, R160). A fault checked after the channel
lookup records the channel itself (log 28). -/
inductive FaultInfo where
  /-- `F_CONFIG(c)`: unknown channel identifier (R162). -/
  | config (ch : ChanId)
  /-- `F_ILLEGAL(W0)`: a packet the decoder rejects, or a malformed `brz` (R168). -/
  | illegal (w0 : Word)
  /-- `F_UNINIT(c)`: a command on a channel that was never initialized (R163). -/
  | uninit (c : Chan)
  /-- `F_REINIT(c)`: a second `initialize` of a channel (R164). -/
  | reinit (c : Chan)
  /-- `F_BADBAUD(c, baud)` (R165). -/
  | badBaud (c : Chan) (baud : Word)
  /-- `F_BADLEN(c, d)`: length 0 (R166). -/
  | badLen (c : Chan) (d : Dir)
  /-- `F_BADBUF(c, d, ptr, len)`: the buffer runs past the last address (R167). -/
  | badBuf (c : Chan) (d : Dir) (ptr len : Word)
  deriving DecidableEq, Repr

/-- The two interrupt sources of a channel (R170). -/
inductive IrqSource where
  | tc
  | rxne
  deriving DecidableEq, Repr

/-- The events of the ghost history `HIST` (R47). -/
inductive Event where
  /-- `INIT(c, baud)`. -/
  | init (c : Chan) (baud : Word)
  /-- `ARM(c, d, ptr, len)`. -/
  | arm (c : Chan) (d : Dir) (ptr len : Word)
  /-- `DROP(c, d)`. -/
  | drop (c : Chan) (d : Dir)
  /-- `QUERY(c, d, r)`. -/
  | query (c : Chan) (d : Dir) (r : Bool)
  /-- `CANCEL(c, d)`. -/
  | cancel (c : Chan) (d : Dir)
  /-- `TXBYTE(c, b)`. -/
  | txByte (c : Chan) (b : Byte)
  /-- `RXARRIVE(c, b)`. -/
  | rxArrive (c : Chan) (b : Byte)
  /-- `OVERRUN(c)`. -/
  | overrun (c : Chan)
  /-- `IRQ(c, s)`. -/
  | irq (c : Chan) (s : IrqSource)
  /-- `RXSTORE(c, a, b)`; the address is the exact sum of R68. -/
  | rxStore (c : Chan) (a : Nat) (b : Byte)
  /-- `RXDISCARD(c, b)`. -/
  | rxDiscard (c : Chan) (b : Byte)
  /-- `CPLT(c, d)`. -/
  | cplt (c : Chan) (d : Dir)
  /-- `FAULT(k)`. -/
  | fault (k : FaultKind)
  deriving DecidableEq, Repr

/-- A line of a schedule (R91): the task agent runs its next statement (`T`), an event line in its stimulus encoding, or
the model's own line for an outside write to the data memory (R69, log 11). -/
inductive Line where
  | task
  | event (p : Packet)
  | write (a : Word) (v : Byte)
  deriving DecidableEq, Repr

/-- A range of numbers, both ends included. -/
structure Region where
  lo : Nat
  hi : Nat
  deriving DecidableEq, Repr

/-- The launch parameters, the model's own field: the open predicates `Adm` (R61) and "representable by the hardware
divider" (R102) as lists of ranges, and the premise `PinsClocksReady` (R196). No step writes them (log 7, log 18). -/
structure Launch where
  adm             : List Region
  baudRates       : List Region
  pinsClocksReady : List Chan
  deriving DecidableEq, Repr

/-- The data memory as (address, byte) pairs, in the canonical form of `Memory.wf`. -/
abbrev Memory := List Host.Cell

/-- A stop that is a stuck state of the agent asked to move. -/
inductive Fault where
  /-- A task step is asked for while `FAULT` is not `none`: the task agent has no enabled step, for ever (R161). Raised by
  every command, by `brz`, and by a task line of the schedule. Safe: the machine stops where the spec gives no step. -/
  | taskHalted
  deriving DecidableEq, Repr

/-- A schedule that is not one of the machine: a harness refuses it (R89). All safe: no step exists there. -/
inductive Refusal where
  /-- An instruction whose meaning is not written. No arm uses it. Safe. -/
  | notModelled (mnemonic : String)
  /-- An event whose enabling condition is false where it is listed (R89). Raised by the six events. Safe. -/
  | eventNotEnabled
  /-- An event whose channel is outside the closed set (R89). Raised by the six events. Safe. -/
  | eventUnknownChannel
  /-- An event line whose packet is no event (R89). Raised by the fetch of a line. Safe. -/
  | lineNotAnEvent
  /-- A task line after the last statement: the task agent has finished and has no further step (R45). Raised by the
  fetch of a line. Safe. -/
  | taskFinished
  /-- The schedule names no next step (R91). Raised by `step`. Safe. -/
  | scheduleEnded
  deriving DecidableEq, Repr

/-- The whole state. -/
structure State where
  /-- Channel1's slot of the Registry. -/
  ch1 : ChanState
  /-- Channel2's slot of the Registry. -/
  ch2 : ChanState
  /-- `FAULT` (R38). -/
  fault : Option FaultInfo
  /-- The data memory (R60). -/
  mem : Memory
  /-- `tpc`, the index of the next statement (R45). -/
  tpc : Nat
  /-- `R`, the task agent's result register (R46). -/
  r : Option Bool
  /-- Ghost `HIST` (R47). -/
  hist : List Event
  /-- The task program, a parameter of the run (R44); the model's own field (log 2). -/
  program : List Packet
  /-- The schedule, head next (R91); the model's own field (log 1). -/
  schedule : List Line
  /-- The launch parameters; the model's own field (log 7). -/
  launch : Launch
  /-- How many environment draws an overrun has used (R137); the model's own field (log 8). -/
  draws : Nat
  deriving DecidableEq, Repr

/-- An engine at reset: disengaged (R52); the transfer registers are unspecified there, 0 is a DESIGN CHOICE (log 5). -/
def Engine.reset : Engine := { run := false, ptr := 0, len := 0, cur := 0 }

/-- A channel at reset (R52); `PRIO` and `RDR` are unspecified there, 0 is a DESIGN CHOICE (log 5). -/
def ChanState.reset : ChanState :=
  { inited := false, ieRxne := false, ieTc := false, ven := false, prio := 0, baud := 0
    txBusy := false, rxBusy := false, tx := Engine.reset, rx := Engine.reset
    tc := false, rxne := false, rdr := 0, txLine := [], ovr := false }

/-- The launch parameters State.reset carries, DESIGN CHOICE (log 7, log 18): every address admitted, the default `BaudOK`
of R7, pins and clocks ready on both channels. -/
def Launch.reset : Launch :=
  { adm := [⟨0, 2 ^ 32 - 1⟩], baudRates := [⟨1, 2 ^ 32 - 1⟩], pinsClocksReady := [.ch1, .ch2] }

/-- The state right after power-on reset (R52, R190, R192). Nothing is loaded: program, schedule and memory are empty. -/
def State.reset : State :=
  { ch1 := ChanState.reset, ch2 := ChanState.reset, fault := none, mem := [], tpc := 0, r := none, hist := []
    program := [], schedule := [], launch := Launch.reset, draws := 0 }

end Sys2Proof.Machine
end

