-- ==== Sys2Proof/Machine/Memory.lean ====
section
/-! DEFINITION. The data memory as a list of cells in one canonical form: addresses strictly rising, below 2^32, and no
entry that equals what an unlisted address reads as (R60 to R63; log 6). -/

namespace Sys2Proof.Machine

/-- What an unlisted address reads as: 0, DESIGN CHOICE (log 6). Every launch memory can be listed, so a statement over
every state is a statement over every launch memory. -/
def Memory.unlisted : Byte := 0

/-- The canonical form. -/
abbrev Memory.wf (m : Memory) : Prop :=
  m.Pairwise (fun x y => x.1 < y.1) ∧ ∀ cell ∈ m, cell.1 < 2 ^ 32 ∧ cell.2 ≠ Memory.unlisted

/-- The byte at one address, `MemRead(a, 1)` of R62 without its admission condition. -/
def Memory.read (m : Memory) (a : Nat) : Byte :=
  match m with
  | [] => Memory.unlisted
  | (k, v) :: rest => if a = k then v else Memory.read rest a

/-- The listing of one cell before `rest`: nothing where the byte equals what an unlisted address reads as. -/
def Memory.put (a : Nat) (v : Byte) (rest : Memory) : Memory :=
  if v = Memory.unlisted then rest else (a, v) :: rest

/-- Replace the byte at one address, `MemWrite(a, 1, v)` of R63 without its admission condition. -/
def Memory.write (m : Memory) (a : Nat) (v : Byte) : Memory :=
  match m with
  | [] => Memory.put a v []
  | (k, w) :: rest =>
    if a < k then Memory.put a v ((k, w) :: rest)
    else if a = k then Memory.put a v rest
    else (k, w) :: Memory.write rest a v

end Sys2Proof.Machine
end

