-- ==== Sys2Proof/Machine/Operands.lean ====
section
/-! DEFINITION. Operand forms and the checks on them: the channel lookup (R23, R162), the buffer check (R17, R167), the baud
check (R102), admission (R61), the effective address (R68), and the accessors through which every register of a channel
and every channel of the state is read and written. -/

namespace Sys2Proof.Machine

/-- The Registry lookup: the channel a packet's identifier names, none outside `0 .. NCH-1` (R23, R87, D2). -/
def chanOfId (ch : ChanId) : Option Chan :=
  if ch = 0 then some .ch1 else if ch = 1 then some .ch2 else none

/-- The number of a channel in a packet (R82, D2). -/
def idOfChan (c : Chan) : ChanId :=
  match c with
  | .ch1 => 0
  | .ch2 => 1

/-- `X[c]`: the slot of channel `c` (R11, R23). -/
def State.chan (s : State) (c : Chan) : ChanState :=
  match c with
  | .ch1 => s.ch1
  | .ch2 => s.ch2

/-- Replace the slot of channel `c`; the other channel's is unchanged (R40). -/
def State.setChan (s : State) (c : Chan) (x : ChanState) : State :=
  match c with
  | .ch1 => { s with ch1 := x }
  | .ch2 => { s with ch2 := x }

/-- `BUSY[c,d]` (R11). -/
def ChanState.busy (x : ChanState) (d : Dir) : Bool :=
  match d with
  | .tx => x.txBusy
  | .rx => x.rxBusy

/-- `BUSY[c,d] <- b`; the other direction's flag is unchanged (R29). -/
def ChanState.setBusy (x : ChanState) (d : Dir) (b : Bool) : ChanState :=
  match d with
  | .tx => { x with txBusy := b }
  | .rx => { x with rxBusy := b }

/-- `RUN[c,d]`, `PTR[c,d]`, `LEN[c,d]`, `CUR[c,d]` (R11). -/
def ChanState.engine (x : ChanState) (d : Dir) : Engine :=
  match d with
  | .tx => x.tx
  | .rx => x.rx

/-- Replace the transfer registers of one direction. -/
def ChanState.setEngine (x : ChanState) (d : Dir) (e : Engine) : ChanState :=
  match d with
  | .tx => { x with tx := e }
  | .rx => { x with rx := e }

/-- The address of the byte at the cursor, `PTR + CUR`, exact and never modulo `2^AW` (R17, R68). -/
def Engine.address (e : Engine) : Nat := e.ptr.toNat + e.cur.toNat

/-- The arming check `ptr + len <= 2^AW`, computed exactly (R17, R167). -/
def bufferFits (ptr len : Word) : Bool := decide (ptr.toNat + len.toNat ≤ Config.addressSpace)

/-- A number lies in a region. -/
def Region.holds (g : Region) (n : Nat) : Bool := decide (g.lo ≤ n) && decide (n ≤ g.hi)

/-- `Adm(a)`: the launch memory admits a byte access at `a`, an address of the memory (R60, R61). -/
def State.admitted (s : State) (a : Nat) : Bool :=
  decide (a < Config.addressSpace) && s.launch.adm.any (fun g => g.holds a)

/-- `BaudOK(b)`: positive, and representable by the hardware divider (R102). -/
def State.baudOK (s : State) (baud : Word) : Bool :=
  decide (1 ≤ baud.toNat) && s.launch.baudRates.any (fun g => g.holds baud.toNat)

/-- `PinsClocksReady(c)`, a launch premise that no step tests (R196). -/
def State.pinsClocksReady (s : State) (c : Chan) : Bool := s.launch.pinsClocksReady.contains c

end Sys2Proof.Machine
end

