-- ==== Sys2Proof/Machine/Flags.lean ====
section
/-! DEFINITION. The Transfer Flag Set: its three primitives (R31 to R33), the answer of a query (R85, R125), the interrupt
request (R170), and the control and status words of R39, which are views for reference: no command reads one by number. -/

namespace Sys2Proof.Machine

/-- `FlagSet(c, d)`: `BUSY[c,d] <- 1`, task context only (R31). -/
def flagSet (c : Chan) (d : Dir) (s : State) : State := s.setChan c ((s.chan c).setBusy d true)

/-- `FlagClear(c, d)`: `BUSY[c,d] <- 0`, task context only (R32). -/
def flagClear (c : Chan) (d : Dir) (s : State) : State := s.setChan c ((s.chan c).setBusy d false)

/-- `FlagClearFromISR(c, d)`: `BUSY[c,d] <- 0`, interrupt context only; total (R33). -/
def flagClearFromISR (c : Chan) (d : Dir) (s : State) : State := s.setChan c ((s.chan c).setBusy d false)

/-- The response word of a query on the command port: bit 0 is `1 - BUSY[c,d]`, the other bits are 0 (R85, R125). -/
def response (busy : Bool) : Word := if busy then 0 else 1

/-- The bit the task agent copies to `R`: `RESP[0]` (R85). -/
def responseBit (resp : Word) : Bool := resp.getLsbD 0

/-- The interrupt request `IRQ(c)` (R170). -/
def irqRequest (x : ChanState) : Bool := x.ven && ((x.rxne && x.ieRxne) || (x.tc && x.ieTc))

/-- `FLAGS[c]`: bit 0 `TXBUSY`, bit 1 `RXBUSY` (R29, R39). -/
def flagsWord (x : ChanState) : BitVec 2 := BitVec.ofBool x.rxBusy ++ BitVec.ofBool x.txBusy

/-- `CTRL[c]`: `INITED`, `IE_RXNE`, `IE_TC`, `VEN` from bit 0 up (R39). -/
def ctrlWord (x : ChanState) : BitVec 4 :=
  BitVec.ofBool x.ven ++ BitVec.ofBool x.ieTc ++ BitVec.ofBool x.ieRxne ++ BitVec.ofBool x.inited

/-- `ISTAT[c]`: bit 0 `RXNE`, bit 1 `TC` (R39). -/
def istatWord (x : ChanState) : BitVec 2 := BitVec.ofBool x.tc ++ BitVec.ofBool x.rxne

end Sys2Proof.Machine
end

