-- ==== Sys2Proof/Machine/Ops.lean ====
section
/-! DEFINITION. The shared operations the meanings are written over: the ghost log (R47), raising a fault (R161, the ONE
operation that takes an exception), the task agent's frame of a command (enabling, channel lookup, initialization check),
arming (R110, R116), the cursor and the completion callbacks (R174 to R177), and the frame of an event (R89).

Return from an exception: there is none to model. A fault is never left (R38, R161), and an interrupt's end restores
nothing, since entry saves nothing and the enables are unchanged (R180, R182). -/

namespace Sys2Proof.Machine

/-- The outcome of a step of this machine. -/
abbrev Result := Host.Outcome State Fault Refusal

/-- `log(e)` for each of `es`, in order (R12, R47). -/
def State.log (s : State) (es : List Event) : State := { s with hist := s.hist ++ es }

/-- `tpc <- tpc + 1`: the statement has returned (R45). -/
def State.advance (s : State) : State := { s with tpc := s.tpc + 1 }

/-- Replace the transfer registers of `(c, d)`. -/
def State.setEngine (s : State) (c : Chan) (d : Dir) (e : Engine) : State := s.setChan c ((s.chan c).setEngine d e)

/-- `MemRead(a, 1)` (R62). -/
def memRead (s : State) (a : Nat) : Byte := s.mem.read a

/-- `MemWrite(a, 1, v)` (R63). -/
def memWrite (a : Nat) (v : Byte) (s : State) : State := { s with mem := s.mem.write a v }

/-- The kind of a fault record (R160). -/
def FaultInfo.kind (f : FaultInfo) : FaultKind :=
  match f with
  | .config _ => .config
  | .illegal _ => .illegal
  | .uninit _ => .uninit
  | .reinit _ => .reinit
  | .badBaud _ _ => .badBaud
  | .badLen _ _ => .badLen
  | .badBuf _ _ _ _ => .badBuf

/-- The code of a fault kind (R160). -/
def FaultKind.code (k : FaultKind) : Nat :=
  match k with
  | .config => 1
  | .illegal => 2
  | .uninit => 3
  | .reinit => 4
  | .badBaud => 5
  | .badLen => 6
  | .badBuf => 7

/-- `raise F(info)`: if `FAULT = none` it is recorded and logged; nothing else is written, not `tpc`, not `R`, no element
of any channel. Sticky: a second fault changes nothing (R161). -/
def raise (f : FaultInfo) (s : State) : State :=
  match s.fault with
  | none => State.log { s with fault := some f } [.fault f.kind]
  | some _ => s

/-- The frame of a task-context step: enabled while `FAULT = none`; otherwise the task agent has no step, for ever
(R110, R161). -/
def taskStep (body : State → State) (s : State) : Result :=
  match s.fault with
  | none => .next (body s)
  | some _ => .fault .taskHalted

/-- The first check of every command: the Registry lookup (R162, R169). -/
def withChan (ch : ChanId) (body : Chan → State → State) (s : State) : State :=
  match chanOfId ch with
  | none => raise (.config ch) s
  | some c => body c s

/-- The first two checks of every command but `initialize` (R162, R163, R169). -/
def withReadyChan (ch : ChanId) (body : Chan → State → State) (s : State) : State :=
  withChan ch (fun c s => if (s.chan c).inited then body c s else raise (.uninit c) s) s

/-- The operand checks of `send` and `receive`, in the order of R169: the fault of the first that fails (R166, R167). -/
def transferFault (c : Chan) (d : Dir) (ptr len : Word) : Option FaultInfo :=
  if len = 0 then some (.badLen c d)
  else if bufferFits ptr len then none
  else some (.badBuf c d ptr len)

/-- The engine just armed (R110, R116). -/
def Engine.armed (ptr len : Word) : Engine := { run := true, ptr := ptr, len := len, cur := 0 }

/-- The body of `send` / `receive` after the channel checks: operands, busy test, then dropping the request or arming the
engine and setting the flag in the same atomic step (R110, R111, R116, R169). -/
def startTransfer (d : Dir) (ptr len : Word) (c : Chan) (s : State) : State :=
  match transferFault c d ptr len with
  | some f => raise f s
  | none =>
    if (s.chan c).busy d then (s.log [.drop c d]).advance
    else ((flagSet c d (s.setEngine c d (Engine.armed ptr len))).log [.arm c d ptr len]).advance

/-- The body of a completion query: the answer goes to `R` through the response word (R85, R125, R126). -/
def answerQuery (d : Dir) (c : Chan) (s : State) : State :=
  let bit := responseBit (response ((s.chan c).busy d))
  ({ s with r := some bit }.log [.query c d bit]).advance

/-- `RUN[c,d] <- 0`: the engine is disengaged; pointer, length and cursor keep their values (R130, R131, D29). -/
def disengage (c : Chan) (d : Dir) (s : State) : State :=
  s.setEngine c d { (s.chan c).engine d with run := false }

/-- `TC[c] <- 0` (R130, R139, R174). -/
def clearTC (c : Chan) (s : State) : State := s.setChan c { s.chan c with tc := false }

/-- `RXNE[c] <- 0` (R175). -/
def clearRXNE (c : Chan) (s : State) : State := s.setChan c { s.chan c with rxne := false }

/-- The channel whose peripheral an interrupt came from: each handle names one peripheral, and the map is the identity
(R43, D35). -/
def channelOfPeripheral (c : Chan) : Chan := c

/-- `TxCplt(c)`: identify the channel that raised the event, clear its TX flag and nothing else (R176, R178). -/
def txCplt (peripheral : Chan) (s : State) : State :=
  let c := channelOfPeripheral peripheral
  (flagClearFromISR c .tx s).log [.cplt c .tx]

/-- `RxCplt(c)`: the same for the RX flag; never another channel's, which is where the reference errs (R177, R178, C1). -/
def rxCplt (peripheral : Chan) (s : State) : State :=
  let c := channelOfPeripheral peripheral
  (flagClearFromISR c .rx s).log [.cplt c .rx]

/-- The completion callback of a direction. -/
def completion (c : Chan) (d : Dir) (s : State) : State :=
  match d with
  | .tx => txCplt c s
  | .rx => rxCplt c s

/-- Advance the byte cursor; on the last byte disengage the engine and call the completion callback (R173 to R175). -/
def advanceCursor (c : Chan) (d : Dir) (s : State) : State :=
  let e := (s.chan c).engine d
  let n := e.cur + 1
  if n = e.len then completion c d (s.setEngine c d { e with cur := n, run := false })
  else s.setEngine c d { e with cur := n }

/-- The frame of an event: its channel must be one of the closed set and its enabling condition true, or a harness refuses
the line; it is then no step and raises no fault (R89). `FAULT` is not tested (R142). -/
def eventStep (ch : ChanId) (enabled : Chan → State → Bool) (body : Chan → State → State) (s : State) : Result :=
  match chanOfId ch with
  | none => .refused .eventUnknownChannel
  | some c => if enabled c s then .next (body c s) else .refused .eventNotEnabled

end Sys2Proof.Machine
end

