-- ==== Sys2Proof/Machine/Aborts.lean ====
section
/-! DEFINITION. `abortSend` and `abortReceive` (43_abort.md). -/

namespace Sys2Proof.Machine

/-- `abortSend(c)`: cancellation requested once, the engine disengaged, a pending transmit event dropped, the flag
cleared unconditionally (R130). `TX_PTR`, `TX_LEN`, `TX_CUR` and `TXLINE[c]` keep their values. -/
def execAbortSend (ch : ChanId) (s : State) : Result :=
  taskStep (withReadyChan ch (fun c s =>
    (flagClear c .tx (clearTC c (disengage c .tx (s.log [.cancel c .tx])))).advance)) s

/-- `abortReceive(c)`: as `abortSend` for the RX direction, but a byte waiting in `RDR[c]` stays (R131). -/
def execAbortReceive (ch : ChanId) (s : State) : Result :=
  taskStep (withReadyChan ch (fun c s =>
    (flagClear c .rx (disengage c .rx (s.log [.cancel c .rx]))).advance)) s

end Sys2Proof.Machine
end

