-- ==== Sys2Proof/Machine/Datapath.lean ====
section
/-! DEFINITION. The datapath events and the stimulus-only forced completions (44_engine_events.md). -/

namespace Sys2Proof.Machine

/-- `TxEmit(c)` is enabled: an engaged transmit, no unhandled event, and an admitted byte at the cursor (R135). -/
def txEmitEnabled (c : Chan) (s : State) : Bool :=
  (s.chan c).inited && (s.chan c).tx.run && !(s.chan c).tc && s.admitted (s.chan c).tx.address

/-- `TxEmit(c)`: the byte at the cursor, as memory holds it now, goes to the line, and the transfer-complete event is
raised; no cursor is written (R135). -/
def execTxEmit (ch : ChanId) (s : State) : Result :=
  eventStep ch txEmitEnabled (fun c s =>
    let b := memRead s (s.chan c).tx.address
    (s.setChan c { s.chan c with txLine := (s.chan c).txLine ++ [b], tc := true }).log [.txByte c b]) s

/-- `RxArrive(c, b)` is enabled on an initialized channel (R137). -/
def rxArriveEnabled (c : Chan) (s : State) : Bool := (s.chan c).inited

/-- The draw of `R137`: which byte is in `RDR[c]` after an overrun, the one that was there or the one that arrived. The
answer is free (log 8). -/
def overrunDraw (old new : Byte) (n : Nat) : Byte := if Config.overrunKeepsOld n then old else new

/-- `RxArrive(c, b)`: a byte arrives from the line; with the previous one still pending it is an overrun, recorded in the
ghost `OVR[c]` only, and one byte is lost (R137). -/
def execRxArrive (ch : ChanId) (byte : Byte) (s : State) : Result :=
  eventStep ch rxArriveEnabled (fun c s =>
    if (s.chan c).rxne then
      { s.setChan c { s.chan c with ovr := true, rdr := overrunDraw (s.chan c).rdr byte s.draws } with
        draws := s.draws + 1 }.log [.rxArrive c byte, .overrun c]
    else (s.setChan c { s.chan c with rdr := byte, rxne := true }).log [.rxArrive c byte]) s

/-- The forced events are enabled on an initialized channel (R139, R140). -/
def forceEnabled (c : Chan) (s : State) : Bool := (s.chan c).inited

/-- `ForceTxCplt(c)`, stimulus only: the transmit is reported complete whatever the cursor says (R139, R141). -/
def execForceTxCplt (ch : ChanId) (s : State) : Result :=
  eventStep ch forceEnabled (fun c s => txCplt c (clearTC c (disengage c .tx s))) s

/-- `ForceRxCplt(c)`, stimulus only; `RXNE[c]` and `RDR[c]` are not written (R140, R141). -/
def execForceRxCplt (ch : ChanId) (s : State) : Result :=
  eventStep ch forceEnabled (fun c s => rxCplt c (disengage c .rx s)) s

end Sys2Proof.Machine
end

