-- ==== Sys2Proof/Machine/Init.lean ====
section
/-! DEFINITION. `initialize` (40_initialize.md). -/

namespace Sys2Proof.Machine

/-- The slot of a channel just initialized: baud rate committed, both interrupt sources enabled, the vector registered at
the fixed priority, the flag set created cleared. The transfer registers, the pending bits, `RDR` and the ghost elements
are not written (R100). -/
def ChanState.initialised (x : ChanState) (baud : Word) : ChanState :=
  { x with
    baud := baud, ieRxne := true, ieTc := true, ven := true, prio := Config.irqPrio
    txBusy := false, rxBusy := false, inited := true }

/-- `initialize(c, baud)` (R100): faults F_CONFIG, F_REINIT, F_BADBAUD in that order (R101, R102, R169), else the whole
effect as one atomic step. -/
def execInitialise (ch : ChanId) (baud : Word) (s : State) : Result :=
  taskStep
    (withChan ch (fun c s =>
      if (s.chan c).inited then raise (.reinit c) s
      else if s.baudOK baud then ((s.setChan c ((s.chan c).initialised baud)).log [.init c baud]).advance
      else raise (.badBaud c baud) s)) s

end Sys2Proof.Machine
end

