-- ==== Sys2Proof/Machine/Isr.lean ====
section
/-! DEFINITION. The interrupt service routine's two source handlers (60_exceptions.md section 3). Each is one atomic step
that handles exactly one pending source, does not nest, tests no `FAULT` and cannot fail (R142, R172, R173, R179, R182). -/

namespace Sys2Proof.Machine

/-- `IrqTC(c)` is enabled: vector registered, source enabled and pending (R174). -/
def irqTCEnabled (c : Chan) (s : State) : Bool := (s.chan c).ven && (s.chan c).ieTc && (s.chan c).tc

/-- `IrqTC(c)`: acknowledge, advance the transmit cursor, complete on the last byte's event (R174). A spurious event, with
no transmit engaged, is acknowledged and nothing further. -/
def execIrqTC (ch : ChanId) (s : State) : Result :=
  eventStep ch irqTCEnabled (fun c s =>
    let acked := clearTC c (s.log [.irq c .tc])
    if (s.chan c).tx.run then advanceCursor c .tx acked else acked) s

/-- `IrqRXNE(c)` is enabled: vector registered, source enabled and pending, and, with a receive engaged, the address the
byte goes to admitted (R175). -/
def irqRXNEEnabled (c : Chan) (s : State) : Bool :=
  (s.chan c).ven && (s.chan c).ieRxne && (s.chan c).rxne
    && (!(s.chan c).rx.run || s.admitted (s.chan c).rx.address)

/-- `IrqRXNE(c)`: acknowledge and take the byte; store it at the cursor and advance, completing on the last byte; or drop
it where no receive is armed (R175, R117). -/
def execIrqRXNE (ch : ChanId) (s : State) : Result :=
  eventStep ch irqRXNEEnabled (fun c s =>
    let b := (s.chan c).rdr
    let acked := clearRXNE c (s.log [.irq c .rxne])
    if (s.chan c).rx.run then
      let a := (s.chan c).rx.address
      advanceCursor c .rx ((memWrite a b acked).log [.rxStore c a b])
    else acked.log [.rxDiscard c b]) s

end Sys2Proof.Machine
end

