-- ==== Sys2Proof/Machine/Queries.lean ====
section
/-! DEFINITION. The completion queries and the host branch (42_queries.md). -/

namespace Sys2Proof.Machine

/-- `isSendComplete(c)`: `R <- 1 - TXBUSY[c]`; no block state is written (R125). -/
def execIsSendComplete (ch : ChanId) (s : State) : Result :=
  taskStep (withReadyChan ch (answerQuery .tx)) s

/-- `isReceiveComplete(c)`: `R <- 1 - RXBUSY[c]` (R126). -/
def execIsReceiveComplete (ch : ChanId) (s : State) : Result :=
  taskStep (withReadyChan ch (answerQuery .rx)) s

/-- `brz target` (R127): F_ILLEGAL before any query, and for a target outside the program whether or not the branch would
be taken; else it branches when `R = 0`. The recorded header word is `0x20000000`. -/
def execBrz (target : Word) (s : State) : Result :=
  taskStep (fun s =>
    match s.r with
    | none => raise (.illegal 0x20000000) s
    | some bit =>
      if s.program.length < target.toNat then raise (.illegal 0x20000000) s
      else if bit then s.advance
      else { s with tpc := target.toNat }) s

end Sys2Proof.Machine
end

