-- ==== Sys2Proof/Machine/Transfer.lean ====
section
/-! DEFINITION. Non-blocking `send` and `receive` (41_send_receive.md). No memory access happens in either: bytes move
later, one per hardware event. -/

namespace Sys2Proof.Machine

/-- `send(c, ptr, len)` (R110, R111): silently dropped while `TXBUSY[c] = 1`. -/
def execSend (ch : ChanId) (ptr len : Word) (s : State) : Result :=
  taskStep (withReadyChan ch (startTransfer .tx ptr len)) s

/-- `receive(c, ptr, len)` (R116): as `send` for the RX direction; a byte already waiting in `RDR[c]` is not flushed. -/
def execReceive (ch : ChanId) (ptr len : Word) (s : State) : Result :=
  taskStep (withReadyChan ch (startTransfer .rx ptr len)) s

end Sys2Proof.Machine
end

