-- ==== Sys2Proof/Machine/Dispatch.lean ====
section
/-! DEFINITION. exec: one arm per row of the opcode table, each one call of the row's meaning. -/

namespace Sys2Proof.Machine

def exec (i : Instr) (s : State) : Host.Outcome State Fault Refusal :=
  match i with
  | .initialise ch baud => Sys2Proof.Machine.execInitialise ch baud s
  | .send ch ptr len => Sys2Proof.Machine.execSend ch ptr len s
  | .receive ch ptr len => Sys2Proof.Machine.execReceive ch ptr len s
  | .isSendComplete ch => Sys2Proof.Machine.execIsSendComplete ch s
  | .isReceiveComplete ch => Sys2Proof.Machine.execIsReceiveComplete ch s
  | .abortSend ch => Sys2Proof.Machine.execAbortSend ch s
  | .abortReceive ch => Sys2Proof.Machine.execAbortReceive ch s
  | .txEmit ch => Sys2Proof.Machine.execTxEmit ch s
  | .rxArrive ch byte => Sys2Proof.Machine.execRxArrive ch byte s
  | .irqTC ch => Sys2Proof.Machine.execIrqTC ch s
  | .irqRXNE ch => Sys2Proof.Machine.execIrqRXNE ch s
  | .forceTxCplt ch => Sys2Proof.Machine.execForceTxCplt ch s
  | .forceRxCplt ch => Sys2Proof.Machine.execForceRxCplt ch s
  | .brz target => Sys2Proof.Machine.execBrz target s

end Sys2Proof.Machine
end

