-- ==== Sys2Proof/Machine/Fetch.lean ====
section
/-! DEFINITION. What a line of the schedule asks for (R91), decided before exec: the instruction to run, or an outcome of
its own; and how a packet, a program, a schedule and a launch memory come to stand where the next step finds them. -/

namespace Sys2Proof.Machine

/-- The next line of the schedule and the state with that line taken (R91). -/
def nextLine (s : State) : Option (Line × State) :=
  match s.schedule with
  | [] => none
  | l :: rest => some (l, { s with schedule := rest })

/-- The task agent's next statement (R44, R45): its decoded term, or F_ILLEGAL for a packet neither the command port nor
the task program accepts (R86, R168), or, where the task agent has no step, the stop that says so (R45, R161). -/
def fetchStatement (s : State) : Except Result Instr :=
  match s.fault with
  | some _ => .error (.fault .taskHalted)
  | none =>
    match s.program[s.tpc]? with
    | none => .error (.refused .taskFinished)
    | some p =>
      match decodeStatement p with
      | .ok i => .ok i
      | .error _ => .error (.next (raise (.illegal p.w0) s))

/-- An outside write to the data memory, by the caller's own code (R69, log 11). -/
def outsideWrite (a : Word) (v : Byte) (s : State) : State := memWrite a.toNat v s

/-- What a line asks for: an instruction for exec, or an outcome (R91). -/
def fetchLine (l : Line) (s : State) : Except Result Instr :=
  match l with
  | .task => fetchStatement s
  | .event p =>
    match decodeEvent p with
    | .ok i => .ok i
    | .error _ => .error (.refused .lineNotAnEvent)
  | .write a v => .error (.next (outsideWrite a v s))

/-- The task program with `p` at index `n`; an index past its end is reached by illegal all-zero packets (E-9 of
95_test_vectors.md). -/
def placeStatement (prog : List Packet) (n : Nat) (p : Packet) : List Packet :=
  prog.take n ++ List.replicate (n - prog.length) ⟨0, 0, 0⟩ ++ p :: prog.drop (n + 1)

/-- The state whose next step fetches the packet `p`: an event packet becomes the schedule's next line; any other packet
becomes the statement at `tpc`, with a task line next. -/
def placePacket (p : Packet) (s : State) : State :=
  match decodeEvent p with
  | .ok _ => { s with schedule := .event p :: s.schedule }
  | .error _ => { s with program := placeStatement s.program s.tpc p, schedule := .task :: s.schedule }

/-- Load a run from outside the machine: a task program, a schedule, a launch memory and launch parameters (R44, R60, R91;
log 2). Bytes are written one by one, so the memory is in canonical form. -/
def State.load (s : State) (program : List Packet) (schedule : List Line) (bytes : List (Word × Byte))
    (launch : Launch) : State :=
  bytes.foldl (fun s x => outsideWrite x.1 x.2 s) { s with program := program, schedule := schedule, launch := launch }

end Sys2Proof.Machine
end

