-- ==== Sys2Proof/Machine/Step.lean ====
section
/-! DEFINITION. One step of the machine: the schedule's next line names the agent that moves (R9, R91). -/

namespace Sys2Proof.Machine

/-- The move a line names, whatever the schedule holds: the relation of R9 over one line. -/
def move (l : Line) (s : State) : Host.Outcome State Fault Refusal :=
  match fetchLine l s with
  | .ok i => exec i s
  | .error o => o

/-- One step: take the schedule's next line and make its move (R9, R91). -/
def step (s : State) : Host.Outcome State Fault Refusal :=
  match nextLine s with
  | none => .refused .scheduleEnded
  | some (l, s') => move l s'

/-- `s` with the packet whose bits are `w` placed where the next step fetches (log 2). -/
def State.withFetchWord (s : State) (nbits w : Nat) : State := placePacket (packetOfTableWord nbits w) s

end Sys2Proof.Machine
end

