-- ==== Sys2Proof/Machine/Asm.lean ====
section
/-! DEFINITION. The assembler of R90 to R92 over source lines: labels name the index of the next statement, indices count
statements only, `waitSend` / `waitReceive` are two statements each, a poll and a branch back to it. The concrete text
form of one statement or schedule line is `renderStatement` / `renderEvent`. -/

namespace Sys2Proof.Machine

/-- How many statements a source line stands for (R90, R92). -/
def AsmLine.size (l : AsmLine) : Nat :=
  match l with
  | .label _ => 0
  | .stmt _ => 1
  | .brzTo _ => 1
  | .waitSend _ => 2
  | .waitReceive _ => 2

/-- How many statements the lines of a source stand for. -/
def sourceSize (src : List AsmLine) : Nat := (src.map AsmLine.size).sum

/-- The index a label names, counting from statement index `n`; the first definition of the name (R90). -/
def labelIndex (name : String) (n : Nat) (src : List AsmLine) : Option Nat :=
  match src with
  | [] => none
  | .label m :: rest => if m = name then some n else labelIndex name n rest
  | l :: rest => labelIndex name (n + AsmLine.size l) rest

/-- The statements of one source line at index `n` of the source `whole`; none for a branch to an unknown label. -/
def assembleLine (whole : List AsmLine) (n : Nat) (l : AsmLine) : Option (List Instr) :=
  match l with
  | .label _ => some []
  | .stmt i => some [i]
  | .brzTo name => (labelIndex name 0 whole).map (fun k => [Instr.brz (BitVec.ofNat 32 k)])
  | .waitSend ch => some [.isSendComplete ch, .brz (BitVec.ofNat 32 n)]
  | .waitReceive ch => some [.isReceiveComplete ch, .brz (BitVec.ofNat 32 n)]

/-- The statements of the lines `src`, the first of them at index `n`. -/
def assembleFrom (whole : List AsmLine) (n : Nat) (src : List AsmLine) : Option (List Instr) :=
  match src with
  | [] => some []
  | l :: rest =>
    match assembleLine whole n l, assembleFrom whole (n + AsmLine.size l) rest with
    | some xs, some ys => some (xs ++ ys)
    | _, _ => none

/-- A task program from its source (R90, R92). -/
def assemble (src : List AsmLine) : Option (List Packet) := (assembleFrom src 0 src).map (fun is => is.map encode)

/-- `<ch>`: `ch1`, `ch2`, or `#<n>` for the raw field value of an unknown channel (R90). -/
def renderChan (ch : ChanId) : String :=
  if ch = 0 then "ch1" else if ch = 1 then "ch2" else "#" ++ toString ch.toNat

/-- The text of a statement (R90); a branch shows its index where the source shows a label. Events have no text in a task
program. -/
def renderStatement (i : Instr) : Option String :=
  match i with
  | .initialise ch baud => some ("initialize " ++ renderChan ch ++ ", " ++ toString baud.toNat)
  | .send ch ptr len => some ("send " ++ renderChan ch ++ ", " ++ toString ptr.toNat ++ ", " ++ toString len.toNat)
  | .receive ch ptr len => some ("receive " ++ renderChan ch ++ ", " ++ toString ptr.toNat ++ ", " ++ toString len.toNat)
  | .isSendComplete ch => some ("isSendComplete " ++ renderChan ch)
  | .isReceiveComplete ch => some ("isReceiveComplete " ++ renderChan ch)
  | .abortSend ch => some ("abortSend " ++ renderChan ch)
  | .abortReceive ch => some ("abortReceive " ++ renderChan ch)
  | .brz target => some ("brz " ++ toString target.toNat)
  | .txEmit _ => none
  | .rxArrive _ _ => none
  | .irqTC _ => none
  | .irqRXNE _ => none
  | .forceTxCplt _ => none
  | .forceRxCplt _ => none

/-- The text of an event line of a schedule (R91); a statement has no text there. -/
def renderEvent (i : Instr) : Option String :=
  match i with
  | .txEmit ch => some ("!txemit " ++ renderChan ch)
  | .rxArrive ch byte => some ("!rxarrive " ++ renderChan ch ++ ", " ++ toString byte.toNat)
  | .irqTC ch => some ("!irq_tc " ++ renderChan ch)
  | .irqRXNE ch => some ("!irq_rxne " ++ renderChan ch)
  | .forceTxCplt ch => some ("!force_txcplt " ++ renderChan ch)
  | .forceRxCplt ch => some ("!force_rxcplt " ++ renderChan ch)
  | .initialise _ _ => none
  | .send _ _ _ => none
  | .receive _ _ _ => none
  | .isSendComplete _ => none
  | .isReceiveComplete _ => none
  | .abortSend _ => none
  | .abortReceive _ => none
  | .brz _ => none

end Sys2Proof.Machine
end

