-- ==== Sys2Proof/Machine/Ghost.lean ====
section
/-! DEFINITION. Functions over the ghost history and the schedule, for stating claims; no step reads them (R47 to R51). -/

namespace Sys2Proof.Machine

/-- The event is an `ARM(c, d, _, _)`. -/
def Event.isArm (c : Chan) (d : Dir) (e : Event) : Bool :=
  match e with
  | .arm c' d' _ _ => decide (c' = c) && decide (d' = d)
  | _ => false

/-- The event is a `CANCEL(c, d)`. -/
def Event.isCancel (c : Chan) (d : Dir) (e : Event) : Bool :=
  match e with
  | .cancel c' d' => decide (c' = c) && decide (d' = d)
  | _ => false

/-- `armcount(c,d)` (R51). -/
def armcount (c : Chan) (d : Dir) (h : List Event) : Nat := h.countP (Event.isArm c d)

/-- `cancelcount(c,d)` (R51). -/
def cancelcount (c : Chan) (d : Dir) (h : List Event) : Nat := h.countP (Event.isCancel c d)

/-- `inflight(c,d)` of the engine of `(c,d)` (R51). -/
def inflight (e : Engine) : Nat := if e.run then 1 else 0

/-- The bytes of the `TXBYTE(c,_)` events since the latest `ARM(c,TX,_,_)`, oldest first (R154), by one pass over `HIST`. -/
def txSinceArm (c : Chan) (h : List Event) : List Byte :=
  h.foldl (fun acc e =>
    match e with
    | .arm c' .tx _ _ => if c' = c then [] else acc
    | .txByte c' b => if c' = c then acc ++ [b] else acc
    | _ => acc) []

/-- The event is the transmit side of channel `c` as R157 counts it: a `TXBYTE(c,_)` or an `IRQ(c,TC)`. -/
def Event.isTransmit (c : Chan) (e : Event) : Bool :=
  match e with
  | .txByte c' _ => decide (c' = c)
  | .irq c' .tc => decide (c' = c)
  | _ => false

/-- The byte of an `RXARRIVE(c, b)` event. -/
def Event.arrival (c : Chan) (e : Event) : Option Byte :=
  match e with
  | .rxArrive c' b => if c' = c then some b else none
  | _ => none

/-- The address and byte of an `RXSTORE(c, a, b)` event. -/
def Event.store (c : Chan) (e : Event) : Option (Nat × Byte) :=
  match e with
  | .rxStore c' a b => if c' = c then some (a, b) else none
  | _ => none

/-- `RXSRC[c]`: the bytes a schedule will deliver to the channel with identifier `ch`, in order (R49). -/
def rxSrc (ch : ChanId) (sched : List Line) : List Byte :=
  sched.filterMap (fun l =>
    match l with
    | .event p =>
      match decodeEvent p with
      | .ok (.rxArrive ch' b) => if ch' = ch then some b else none
      | _ => none
    | _ => none)

end Sys2Proof.Machine
end

