-- ==== Sys2Proof/Safety.lean ====
section
/-! DEFINITION. The terms claims are stated in: the invariants of 45_state_machine.md, what a step leaves alone, runs of the
machine, the premises of the spec (BufStable, no forced event, fairness, the launch premise), and final states (R213). -/

namespace Sys2Proof.Safety

open Sys2Proof.Machine

/-- R151: an engaged engine is well formed. -/
def EngineOk (e : Engine) : Prop :=
  e.run = true → 1 ≤ e.len.toNat ∧ e.cur.toNat < e.len.toNat ∧ e.ptr.toNat + e.len.toNat ≤ 2 ^ 32

/-- The invariants of one channel (R150 to R153, and R27, R28 for the enables). -/
structure ChanOk (x : ChanState) : Prop where
  /-- R150, TX: flag equals engagement. -/
  txFlag : x.txBusy = x.tx.run
  /-- R150, RX. -/
  rxFlag : x.rxBusy = x.rx.run
  /-- R151, TX. -/
  txEngine : EngineOk x.tx
  /-- R151, RX. -/
  rxEngine : EngineOk x.rx
  /-- R152: a pending transmit event implies an engaged transmit. -/
  txPending : x.tc = true → x.tx.run = true
  /-- R153: an uninitialized channel is inert. -/
  inert : x.inited = false →
    x.tx.run = false ∧ x.rx.run = false ∧ x.rxne = false ∧ x.ieRxne = false ∧ x.ieTc = false ∧ x.ven = false
  /-- R27, R28, R100: an initialized channel has both sources enabled and its vector registered. -/
  enabled : x.inited = true → x.ieRxne = true ∧ x.ieTc = true ∧ x.ven = true

/-- The invariant of the machine: every channel's, under the launch premise of that channel (R196), the canonical form of
memory, and `tpc` within the program (R45). -/
structure StateInv (s : State) : Prop where
  chans : ∀ c, s.pinsClocksReady c = true → ChanOk (s.chan c)
  mem : s.mem.wf
  tpc : s.tpc ≤ s.program.length

/-- R154, the count, for every channel under its launch premise (R196): while a transmit is engaged, as many bytes went out
since its arming as the cursor counts, and one more while an event is pending. -/
def LineCounted (s : State) : Prop :=
  ∀ c, s.pinsClocksReady c = true → (s.chan c).tx.run = true →
    (txSinceArm c s.hist).length = (s.chan c).tx.cur.toNat + (s.chan c).tc.toNat

/-- R154, the bytes: the bytes that went out since the arming are the buffer's first ones, as memory holds them. -/
def LineIsBuffer (c : Chan) (s : State) : Prop :=
  (s.chan c).tx.run = true →
    txSinceArm c s.hist =
      (List.range ((s.chan c).tx.cur.toNat + (s.chan c).tc.toNat)).map
        (fun i => s.mem.read ((s.chan c).tx.ptr.toNat + i))

/-- `BufStable` over one step (R69): the bytes of the buffer that engine `e` holds read the same after it. -/
def BufferKept (e : Engine) (s t : State) : Prop :=
  ∀ i, i < e.len.toNat → t.mem.read (e.ptr.toNat + i) = s.mem.read (e.ptr.toNat + i)

/-- Every byte of the data memory reads as before. -/
def MemSame (s t : State) : Prop := ∀ a, t.mem.read a = s.mem.read a

/-- The model's own fields and the parameters of the run are unchanged (R44, R54). -/
def LaunchSame (s t : State) : Prop :=
  t.program = s.program ∧ t.schedule = s.schedule ∧ t.launch = s.launch

/-- What a step of channel `c` that touches no memory leaves alone: every element of every other channel, every byte of
memory, the program, the schedule, the launch parameters (R40, R54). -/
def SameElsewhere (c : Chan) (s t : State) : Prop :=
  (∀ c', c' ≠ c → t.chan c' = s.chan c') ∧ MemSame s t ∧ LaunchSame s t

/-- The task agent's state is unchanged: `tpc`, `R`, and `FAULT` (an event writes none of them, R54). -/
def TaskSame (s t : State) : Prop := t.tpc = s.tpc ∧ t.r = s.r ∧ t.fault = s.fault

/-- The state after `raise F(info)` where `FAULT = none`, as R161 gives it: `FAULT` and `HIST` written, nothing else. -/
def Faulted (f : FaultInfo) (s : State) : State :=
  { s with fault := some f, hist := s.hist ++ [.fault f.kind] }

/-- The instruction the next step runs, if it runs one. -/
def nextInstr (s : State) : Option Instr :=
  match nextLine s with
  | none => none
  | some (l, s') =>
    match fetchLine l s' with
    | .ok i => some i
    | .error _ => none

/-- The next step is one of the forced events, which are not steps of the machine proper (R141). -/
def ForcedNext (s : State) : Prop := ∃ ch, nextInstr s = some (.forceTxCplt ch) ∨ nextInstr s = some (.forceRxCplt ch)

/-- A step of the machine proper: any step but a forced event (R141, log 10). -/
def ProperStep (s t : State) : Prop := step s = .next t ∧ ¬ ForcedNext s

/-- `t` is reached from `s` by steps of the machine proper each of which meets `ok`. -/
inductive Run (ok : State → State → Prop) : State → State → Prop where
  | refl (s : State) : Run ok s s
  | more {s t u : State} : Run ok s t → ProperStep t u → ok t u → Run ok s u

/-- The line is an event line of instruction `i`. -/
def LineRuns (l : Line) (i : Instr) : Prop := ∃ p, l = .event p ∧ decodeEvent p = .ok i

/-- The line is an event line of a forced event. -/
def LineForced (l : Line) : Prop := ∃ ch, LineRuns l (.forceTxCplt ch) ∨ LineRuns l (.forceRxCplt ch)

/-- An infinite run of the machine proper: line `ln n` moves state `st n` to state `st (n+1)` (R9). -/
structure Endless (ln : Nat → Line) (st : Nat → State) : Prop where
  moves : ∀ n, move (ln n) (st n) = .next (st (n + 1))
  proper : ∀ n, ¬ LineForced (ln n)

/-- Weak fairness of the transmit side of channel `c` (R212): `TxEmit(c)` and `IrqTC(c)`, each, if enabled from some point
on for ever, is taken after it. Nothing is assumed of `RxArrive`. -/
structure FairTransmit (c : Chan) (ln : Nat → Line) (st : Nat → State) : Prop where
  emit : ∀ n, (∀ m, n ≤ m → txEmitEnabled c (st m) = true) → ∃ m, n ≤ m ∧ LineRuns (ln m) (.txEmit (idOfChan c))
  irq : ∀ n, (∀ m, n ≤ m → irqTCEnabled c (st m) = true) → ∃ m, n ≤ m ∧ LineRuns (ln m) (.irqTC (idOfChan c))

/-- Weak fairness of the ISR's receive step of channel `c` (R212): `IrqRXNE(c)`, if enabled from some point on for ever, is
taken after it. Nothing is assumed of `RxArrive`. -/
structure FairReceive (c : Chan) (ln : Nat → Line) (st : Nat → State) : Prop where
  irq : ∀ n, (∀ m, n ≤ m → irqRXNEEnabled c (st m) = true) → ∃ m, n ≤ m ∧ LineRuns (ln m) (.irqRXNE (idOfChan c))

/-- The fairness of R212, whole: every ISR step and every `TxEmit` step, of every channel. A claim takes the part it needs. -/
def Fair (ln : Nat → Line) (st : Nat → State) : Prop := ∀ c, FairTransmit c ln st ∧ FairReceive c ln st

/-- A final state (R213): the task agent has finished, no fault, no interrupt requested, no transmit in flight. A receive
may still be armed, and a final state is final up to further input. -/
def Final (s : State) : Prop :=
  s.tpc = s.program.length ∧ s.fault = none ∧
    ∀ c, irqRequest (s.chan c) = false ∧ (s.chan c).tx.run = false

/-- The launch premise of R196 for every channel: pins and clocks were configured before the run. No step tests it; claims are
stated under it (log 18). -/
def PinsClocksReady (s : State) : Prop := ∀ c, s.pinsClocksReady c = true

/-- What a safe run has to show, not assume: no fault has been raised (R161). -/
def NoFaultRaised (s : State) : Prop := s.fault = none

end Sys2Proof.Safety
end

