-- ==== Sys2Proof/Certificates/Slice0/Obligations.lean ====
section
/-! DEFINITION. The statements for the provers, from the numbered rules of spec/. Each docstring says which rule it
formalises. In all of them `chanOfId ch = some c` says that the packet's channel identifier names the channel `c` of the
closed set, so both channels are covered, and `t` is the state after.

R196: "a model should state claims under the premise and say nothing otherwise". Every statement about the steps of a channel
`c` takes the launch premise `s.pinsClocksReady c = true` of that channel (`PinsClocksReady s` where the statement is about the
steps of any channel), and `StateInv`, `LineCounted` say nothing of a channel without it. No step tests it and no step changes
it. The statements that do not take it say nothing of what a step of a channel does to it: decoding and assembling, which
instruction a line runs, outside writes, the reset values, an identifier of no channel, a task agent that has halted or
finished, `brz`, memory as data, the program and the launch parameters (the premise among them). -/

open Sys2Proof Sys2Proof.Machine Sys2Proof.Safety

/-! ## Encoding (30_encoding.md) -/

/-- R82, R83, R84, R89: decoding the encoding of any of the fourteen terms, with every operand at every value of its field,
gives the term back. -/
def Obligations.DecodeOfEncodeIsTheTerm : Prop :=
  ∀ i : Instr, decode (encode i) = .ok i

/-- R84, R89: a packet decodes to a term of a row of the opcode table iff its header word matches the row,
`W0 & mask = match`. -/
def Obligations.PacketIsTheTermItsHeaderMatches : Prop :=
  ∀ (p : Packet) (row : Instr),
    p.w0 &&& row.mask = row.matchBits ↔ ∃ i, decode p = .ok i ∧ i.opcode = row.opcode

/-- R82, R83, R89: what the decoder reads has the packet's header word and its used operand words whole: no extension,
scaling, shifting or splitting; and the words a term does not use have no effect. -/
def Obligations.DecodedTermHasThePacketsWords : Prop :=
  ∀ (p q : Packet) (i : Instr), decode p = .ok i →
    (encode i).w0 = p.w0 ∧
    (match i with
      | .initialise _ baud => baud = p.w1
      | .send _ ptr len => ptr = p.w1 ∧ len = p.w2
      | .receive _ ptr len => ptr = p.w1 ∧ len = p.w2
      | .rxArrive _ byte => byte = p.w1.setWidth 8
      | .brz target => target = p.w1
      | _ => True) ∧
    (q.w0 = p.w0 →
      (match i with
        | .initialise _ _ => q.w1 = p.w1
        | .send _ _ _ => q.w1 = p.w1 ∧ q.w2 = p.w2
        | .receive _ _ _ => q.w1 = p.w1 ∧ q.w2 = p.w2
        | .rxArrive _ _ => q.w1.setWidth 8 = p.w1.setWidth 8
        | .brz _ => q.w1 = p.w1
        | _ => True) → decode q = .ok i)

/-- R86: a packet on the command port is illegal when its opcode is not one of 0x01 to 0x07 or its reserved bits are not 0;
the task agent that executes an illegal packet (one that is no `brz` of the task program either, R89) raises
F_ILLEGAL with the header word, and no other state changes. -/
def Obligations.IllegalPacketFaultsAndChangesNothingElse : Prop :=
  (∀ p : Packet,
    (∃ e, decodeCommand p = .error e) ↔
      ¬ (1 ≤ p.w0.toNat / 2 ^ 24 ∧ p.w0.toNat / 2 ^ 24 ≤ 7) ∨ p.w0.toNat % 2 ^ 16 ≠ 0) ∧
  ∀ (s : State) (p : Packet) (rest : List Line),
    s.schedule = .task :: rest → s.fault = none → s.program[s.tpc]? = some p →
    (∃ e, decodeCommand p = .error e) → p.w0 ≠ 0x20000000 →
    step s = .next (Faulted (.illegal p.w0) { s with schedule := rest })

/-- R93: worked encodings, one of each family, written out as words. -/
def Obligations.WorkedEncodingsDecode : Prop :=
  decode ⟨0x01000000, 0x0001C200, 0x00000000⟩ = .ok (.initialise 0 115200) ∧
  decode ⟨0x02010000, 0x20000100, 0x00000003⟩ = .ok (.send 1 0x20000100 3) ∧
  decode ⟨0x03000000, 0x20000010, 0x00000004⟩ = .ok (.receive 0 0x20000010 4) ∧
  decode ⟨0x05010000, 0x00000000, 0x00000000⟩ = .ok (.isReceiveComplete 1) ∧
  decode ⟨0x06000000, 0x00000000, 0x00000000⟩ = .ok (.abortSend 0) ∧
  decode ⟨0x20000000, 0x00000002, 0x00000000⟩ = .ok (.brz 2) ∧
  decode ⟨0x11000000, 0x0000005A, 0x00000000⟩ = .ok (.rxArrive 0 0x5A) ∧
  decode ⟨0x12010000, 0x00000000, 0x00000000⟩ = .ok (.irqTC 1)

/-- R90, R92: a wait at any place of a source is two statements, the query and a `brz` back to it, at the wait's own index:
the lines before it assemble as they do alone, and the lines after it from two statements on. And it is the expansion of
R92: the three lines `L: query ; brz L`, for any fresh label `L`. -/
def Obligations.WaitExpandsToThePollLoop : Prop :=
  ∀ (before after : List AsmLine) (ch : ChanId) (wait : AsmLine) (query : Instr),
    (wait = .waitSend ch ∧ query = .isSendComplete ch) ∨ (wait = .waitReceive ch ∧ query = .isReceiveComplete ch) →
    (∀ (whole : List AsmLine) (n : Nat),
      assembleFrom whole n (before ++ wait :: after) =
        (assembleFrom whole n before).bind (fun xs =>
          (assembleFrom whole (n + sourceSize before + 2) after).map (fun ys =>
            xs ++ [query, Instr.brz (BitVec.ofNat 32 (n + sourceSize before))] ++ ys))) ∧
    ∀ name : String, (∀ l ∈ before ++ after, l ≠ .label name ∧ l ≠ .brzTo name) →
      assemble (before ++ wait :: after) =
        assemble (before ++ [.label name, .stmt query, .brzTo name] ++ after)

/-! ## A step runs the decoded instruction -/

/-- R44, R45, R91: a task line runs the statement at `tpc`, decoded, on the state with the line taken. -/
def Obligations.TaskLineRunsTheStatementAtTpc : Prop :=
  ∀ (s : State) (rest : List Line) (p : Packet) (i : Instr),
    s.schedule = .task :: rest → s.fault = none → s.program[s.tpc]? = some p → decodeStatement p = .ok i →
    step s = exec i { s with schedule := rest }

/-- R89, R91: an event line runs the event its packet encodes, on the state with the line taken, whatever `FAULT` and the
task agent's state are. -/
def Obligations.EventLineRunsTheEvent : Prop :=
  ∀ (s : State) (rest : List Line) (p : Packet) (i : Instr),
    s.schedule = .event p :: rest → decodeEvent p = .ok i →
    step s = exec i { s with schedule := rest }

/-- R9: any move that some line makes from a state may be the next step, by a schedule that lists the line next. -/
def Obligations.AnyEnabledMoveMayBeNext : Prop :=
  ∀ (s t : State) (l : Line), move l s = .next t → step { s with schedule := l :: s.schedule } = .next t

/-- R69, the second of its two choices, which is the model's (log 11): an outside write is a step that changes one byte of
memory and nothing else. -/
def Obligations.OutsideWriteChangesOneByte : Prop :=
  ∀ (s : State) (rest : List Line) (a : Word) (v : Byte),
    s.schedule = .write a v :: rest → s.mem.wf →
    ∃ m, step s = .next { s with schedule := rest, mem := m } ∧
      ∀ b, m.read b = if b = a.toNat then v else s.mem.read b

/-! ## Reset (10_state.md R52) -/

/-- R52: the reset value of every element that has one. -/
def Obligations.ResetHoldsTheSpecifiedValues : Prop :=
  (∀ c,
    (State.reset.chan c).inited = false ∧ (State.reset.chan c).baud = 0 ∧
    (State.reset.chan c).ieRxne = false ∧ (State.reset.chan c).ieTc = false ∧ (State.reset.chan c).ven = false ∧
    (State.reset.chan c).txBusy = false ∧ (State.reset.chan c).rxBusy = false ∧
    (State.reset.chan c).tx.run = false ∧ (State.reset.chan c).rx.run = false ∧
    (State.reset.chan c).tc = false ∧ (State.reset.chan c).rxne = false ∧
    (State.reset.chan c).txLine = [] ∧ (State.reset.chan c).ovr = false ∧
    irqRequest (State.reset.chan c) = false) ∧
  State.reset.fault = none ∧ State.reset.tpc = 0 ∧ State.reset.r = none ∧ State.reset.hist = [] ∧
  Config.fmt.wordLength = 8 ∧ Config.fmt.parity = .none ∧ Config.fmt.stopBits = 1 ∧
  Config.fmt.flowControl = .none ∧ Config.fmt.oversampling = 16

/-! ## `initialize` (40_initialize.md) -/

/-- R100: `initialize` of a channel not yet initialized, with an accepted baud rate, completes: the slot's new value, the
history, `tpc`; everything else is unchanged. -/
def Obligations.InitialiseMakesTheChannelReady : Prop :=
  ∀ (s : State) (ch : ChanId) (c : Chan) (baud : Word),
    chanOfId ch = some c → s.pinsClocksReady c = true → s.fault = none → (s.chan c).inited = false → s.baudOK baud = true →
    ∃ t, exec (.initialise ch baud) s = .next t ∧
      t.chan c = { s.chan c with
        baud := baud, ieRxne := true, ieTc := true, ven := true, prio := Config.irqPrio
        txBusy := false, rxBusy := false, inited := true } ∧
      SameElsewhere c s t ∧ t.draws = s.draws ∧
      t.fault = none ∧ t.r = s.r ∧ t.tpc = s.tpc + 1 ∧ t.hist = s.hist ++ [.init c baud]

/-- R100, R101, R102, R169: the faults of `initialize` on a known channel, in their order; nothing else is written. Baud
rate 0 is never accepted ("positive"). -/
def Obligations.InitialiseFaultsInOrder : Prop :=
  ∀ (s : State) (ch : ChanId) (c : Chan) (baud : Word),
    chanOfId ch = some c → s.pinsClocksReady c = true → s.fault = none →
    ((s.chan c).inited = true → exec (.initialise ch baud) s = .next (Faulted (.reinit c) s)) ∧
    ((s.chan c).inited = false → s.baudOK baud = false →
      exec (.initialise ch baud) s = .next (Faulted (.badBaud c baud) s)) ∧
    s.baudOK 0 = false

/-- R104: right after the step of `initialize`, both completion queries of the channel return 1. -/
def Obligations.InitialisedChannelAnswersComplete : Prop :=
  ∀ (s t : State) (ch : ChanId) (baud : Word),
    (∀ c, chanOfId ch = some c → s.pinsClocksReady c = true) →
    s.fault = none → exec (.initialise ch baud) s = .next t → t.fault = none →
    (∃ u, exec (.isSendComplete ch) t = .next u ∧ u.r = some true) ∧
    (∃ u, exec (.isReceiveComplete ch) t = .next u ∧ u.r = some true)

/-! ## `send` and `receive` (41_send_receive.md) -/

/-- R110, R155: `send` on an idle transmit direction, with operands that pass the checks, arms it: `ptr + len = 2^32` is
still accepted. The receive direction, every other channel and all of memory are unchanged. -/
def Obligations.SendArmsAnIdleDirection : Prop :=
  ∀ (s : State) (ch : ChanId) (c : Chan) (ptr len : Word),
    chanOfId ch = some c → s.pinsClocksReady c = true → s.fault = none → (s.chan c).inited = true →
    len ≠ 0 → ptr.toNat + len.toNat ≤ 2 ^ 32 → (s.chan c).txBusy = false →
    ∃ t, exec (.send ch ptr len) s = .next t ∧
      t.chan c = { s.chan c with tx := { run := true, ptr := ptr, len := len, cur := 0 }, txBusy := true } ∧
      SameElsewhere c s t ∧ t.draws = s.draws ∧
      t.fault = none ∧ t.r = s.r ∧ t.tpc = s.tpc + 1 ∧ t.hist = s.hist ++ [.arm c .tx ptr len]

/-- R116: `receive` on an idle receive direction arms it; a byte already waiting is not flushed. -/
def Obligations.ReceiveArmsAnIdleDirection : Prop :=
  ∀ (s : State) (ch : ChanId) (c : Chan) (ptr len : Word),
    chanOfId ch = some c → s.pinsClocksReady c = true → s.fault = none → (s.chan c).inited = true →
    len ≠ 0 → ptr.toNat + len.toNat ≤ 2 ^ 32 → (s.chan c).rxBusy = false →
    ∃ t, exec (.receive ch ptr len) s = .next t ∧
      t.chan c = { s.chan c with rx := { run := true, ptr := ptr, len := len, cur := 0 }, rxBusy := true } ∧
      SameElsewhere c s t ∧ t.draws = s.draws ∧
      t.fault = none ∧ t.r = s.r ∧ t.tpc = s.tpc + 1 ∧ t.hist = s.hist ++ [.arm c .rx ptr len]

/-- R111, R116, R156: a `send` / `receive` with good operands while its direction is busy is dropped: no element of any
channel and no byte of memory changes; only `tpc` and the history do, and the history gains no arming. -/
def Obligations.BusyDirectionDropsTheRequest : Prop :=
  ∀ (s : State) (ch : ChanId) (c : Chan) (ptr len : Word),
    chanOfId ch = some c → s.pinsClocksReady c = true → s.fault = none → (s.chan c).inited = true →
    len ≠ 0 → ptr.toNat + len.toNat ≤ 2 ^ 32 →
    ((s.chan c).txBusy = true → ∃ t, exec (.send ch ptr len) s = .next t ∧
      (∀ c', t.chan c' = s.chan c') ∧ MemSame s t ∧ LaunchSame s t ∧ t.draws = s.draws ∧
      t.fault = none ∧ t.r = s.r ∧ t.tpc = s.tpc + 1 ∧ t.hist = s.hist ++ [.drop c .tx] ∧
      armcount c .tx t.hist = armcount c .tx s.hist) ∧
    ((s.chan c).rxBusy = true → ∃ t, exec (.receive ch ptr len) s = .next t ∧
      (∀ c', t.chan c' = s.chan c') ∧ MemSame s t ∧ LaunchSame s t ∧ t.draws = s.draws ∧
      t.fault = none ∧ t.r = s.r ∧ t.tpc = s.tpc + 1 ∧ t.hist = s.hist ++ [.drop c .rx] ∧
      armcount c .rx t.hist = armcount c .rx s.hist)

/-- R110, R115, R116, R166, R167, R169: the operand faults of `send` / `receive` on an initialized channel, length first;
they come before the busy test, so busy or not makes no difference, and nothing else is written. -/
def Obligations.TransferOperandFaultsInOrder : Prop :=
  ∀ (s : State) (ch : ChanId) (c : Chan) (ptr len : Word),
    chanOfId ch = some c → s.pinsClocksReady c = true → s.fault = none → (s.chan c).inited = true →
    exec (.send ch ptr 0) s = .next (Faulted (.badLen c .tx) s) ∧
    exec (.receive ch ptr 0) s = .next (Faulted (.badLen c .rx) s) ∧
    (len ≠ 0 → 2 ^ 32 < ptr.toNat + len.toNat →
      exec (.send ch ptr len) s = .next (Faulted (.badBuf c .tx ptr len) s) ∧
      exec (.receive ch ptr len) s = .next (Faulted (.badBuf c .rx ptr len) s))

/-! ## Faults common to the commands (60_exceptions.md) -/

/-- R162: a command whose channel identifier is outside `0 .. NCH-1` raises F_CONFIG, whatever its operands. -/
def Obligations.UnknownChannelIsAConfigurationError : Prop :=
  ∀ (s : State) (ch : ChanId) (a b : Word),
    2 ≤ ch.toNat → s.fault = none →
    exec (.initialise ch a) s = .next (Faulted (.config ch) s) ∧
    exec (.send ch a b) s = .next (Faulted (.config ch) s) ∧
    exec (.receive ch a b) s = .next (Faulted (.config ch) s) ∧
    exec (.isSendComplete ch) s = .next (Faulted (.config ch) s) ∧
    exec (.isReceiveComplete ch) s = .next (Faulted (.config ch) s) ∧
    exec (.abortSend ch) s = .next (Faulted (.config ch) s) ∧
    exec (.abortReceive ch) s = .next (Faulted (.config ch) s)

/-- R163: each of the six other commands on a channel that was never initialized raises F_UNINIT, whatever its operands. -/
def Obligations.UninitialisedChannelFaultsEveryOtherCommand : Prop :=
  ∀ (s : State) (ch : ChanId) (c : Chan) (a b : Word),
    chanOfId ch = some c → s.pinsClocksReady c = true → s.fault = none → (s.chan c).inited = false →
    exec (.send ch a b) s = .next (Faulted (.uninit c) s) ∧
    exec (.receive ch a b) s = .next (Faulted (.uninit c) s) ∧
    exec (.isSendComplete ch) s = .next (Faulted (.uninit c) s) ∧
    exec (.isReceiveComplete ch) s = .next (Faulted (.uninit c) s) ∧
    exec (.abortSend ch) s = .next (Faulted (.uninit c) s) ∧
    exec (.abortReceive ch) s = .next (Faulted (.uninit c) s)

/-- R161: a step that raises a fault writes `FAULT` and `HIST` and nothing else: not `tpc`, not `R`, no element of any
channel, no byte of memory. -/
def Obligations.RaisingAFaultWritesOnlyFaultAndHistory : Prop :=
  ∀ (s t : State) (f : FaultInfo),
    PinsClocksReady s → step s = .next t → s.fault = none → t.fault = some f →
    t = Faulted f { s with schedule := s.schedule.tail }

/-- R38, R161: `FAULT` once not `none` never changes, and while it is not `none` the task agent has no step: no step of the
machine moves `tpc` or `R`. That a task line, and any instruction of the task's, then ends in the stuck outcome `taskHalted`
is the model's reading of "no step" (log 4, DEDUCED). -/
def Obligations.FaultIsStickyAndHaltsTheTask : Prop :=
  ∀ (s : State) (f : FaultInfo), s.fault = some f →
    (∀ t, step s = .next t → t.fault = some f ∧ t.tpc = s.tpc ∧ t.r = s.r) ∧
    (∀ rest, s.schedule = .task :: rest → step s = .fault .taskHalted) ∧
    (∀ i : Instr, i.context = .task → exec i s = .fault .taskHalted)

/-! ## Queries and the host branch (42_queries.md) -/

/-- R125, R126: a query on an initialized channel answers 1 if the flag is clear and 0 if it is set, in `R`; no block
state is written. -/
def Obligations.QueryAnswersTheNegatedFlag : Prop :=
  ∀ (s : State) (ch : ChanId) (c : Chan),
    chanOfId ch = some c → s.pinsClocksReady c = true → s.fault = none → (s.chan c).inited = true →
    (∃ t, exec (.isSendComplete ch) s = .next t ∧ t.r = some (!(s.chan c).txBusy) ∧
      (∀ c', t.chan c' = s.chan c') ∧ MemSame s t ∧ LaunchSame s t ∧ t.draws = s.draws ∧
      t.fault = none ∧ t.tpc = s.tpc + 1 ∧ t.hist = s.hist ++ [.query c .tx (!(s.chan c).txBusy)]) ∧
    (∃ t, exec (.isReceiveComplete ch) s = .next t ∧ t.r = some (!(s.chan c).rxBusy) ∧
      (∀ c', t.chan c' = s.chan c') ∧ MemSame s t ∧ LaunchSame s t ∧ t.draws = s.draws ∧
      t.fault = none ∧ t.tpc = s.tpc + 1 ∧ t.hist = s.hist ++ [.query c .rx (!(s.chan c).rxBusy)])

/-- R127: `brz` after a query, with a target inside the program, branches if `R = 0` and falls through if `R = 1`; it
writes `tpc` and nothing else. The target may be the program's length. -/
def Obligations.BrzBranchesOnZero : Prop :=
  ∀ (s : State) (target : Word) (bit : Bool),
    s.fault = none → s.r = some bit → target.toNat ≤ s.program.length →
    exec (.brz target) s = .next { s with tpc := if bit then s.tpc + 1 else target.toNat }

/-- R127, R168: `brz` before any query, or with a target outside the program whether or not it would be taken, raises
F_ILLEGAL with its header word. -/
def Obligations.MalformedBrzIsIllegal : Prop :=
  ∀ (s : State) (target : Word),
    s.fault = none → (s.r = none ∨ s.program.length < target.toNat) →
    exec (.brz target) s = .next (Faulted (.illegal 0x20000000) s)

/-! ## Aborts (43_abort.md) -/

/-- R130, R159: `abortSend` on an initialized channel completes whatever the flag: engine disengaged, pending transmit
event dropped, flag cleared, one cancellation; pointer, length, cursor, line and the receive direction unchanged. -/
def Obligations.AbortSendStopsTheTransmit : Prop :=
  ∀ (s : State) (ch : ChanId) (c : Chan),
    chanOfId ch = some c → s.pinsClocksReady c = true → s.fault = none → (s.chan c).inited = true →
    ∃ t, exec (.abortSend ch) s = .next t ∧
      t.chan c = { s.chan c with tx := { (s.chan c).tx with run := false }, tc := false, txBusy := false } ∧
      SameElsewhere c s t ∧ t.draws = s.draws ∧
      t.fault = none ∧ t.r = s.r ∧ t.tpc = s.tpc + 1 ∧ t.hist = s.hist ++ [.cancel c .tx] ∧
      cancelcount c .tx t.hist = cancelcount c .tx s.hist + 1

/-- R131, R159: `abortReceive` on an initialized channel completes whatever the flag; a byte waiting in `RDR` stays. -/
def Obligations.AbortReceiveStopsTheReceive : Prop :=
  ∀ (s : State) (ch : ChanId) (c : Chan),
    chanOfId ch = some c → s.pinsClocksReady c = true → s.fault = none → (s.chan c).inited = true →
    ∃ t, exec (.abortReceive ch) s = .next t ∧
      t.chan c = { s.chan c with rx := { (s.chan c).rx with run := false }, rxBusy := false } ∧
      SameElsewhere c s t ∧ t.draws = s.draws ∧
      t.fault = none ∧ t.r = s.r ∧ t.tpc = s.tpc + 1 ∧ t.hist = s.hist ++ [.cancel c .rx] ∧
      cancelcount c .rx t.hist = cancelcount c .rx s.hist + 1

/-! ## Datapath and forced events (44_engine_events.md) -/

/-- R135, R62, R68: `TxEmit` under its enabling condition sends the byte memory holds at `PTR + CUR` and raises `TC`; no
cursor, no flag and no byte of memory changes, and `FAULT` is not tested. -/
def Obligations.TxEmitSendsTheByteAtTheCursor : Prop :=
  ∀ (s : State) (ch : ChanId) (c : Chan),
    chanOfId ch = some c → s.pinsClocksReady c = true → (s.chan c).inited = true → (s.chan c).tx.run = true → (s.chan c).tc = false →
    s.admitted ((s.chan c).tx.ptr.toNat + (s.chan c).tx.cur.toNat) = true →
    ∃ t b, exec (.txEmit ch) s = .next t ∧
      b = s.mem.read ((s.chan c).tx.ptr.toNat + (s.chan c).tx.cur.toNat) ∧
      t.chan c = { s.chan c with txLine := (s.chan c).txLine ++ [b], tc := true } ∧
      SameElsewhere c s t ∧ TaskSame s t ∧ t.draws = s.draws ∧ t.hist = s.hist ++ [.txByte c b]

/-- R137: `RxArrive` on an initialized channel with no byte pending latches the byte and raises `RXNE`. -/
def Obligations.RxArriveLatchesTheByte : Prop :=
  ∀ (s : State) (ch : ChanId) (c : Chan) (b : Byte),
    chanOfId ch = some c → s.pinsClocksReady c = true → (s.chan c).inited = true → (s.chan c).rxne = false →
    ∃ t, exec (.rxArrive ch b) s = .next t ∧
      t.chan c = { s.chan c with rdr := b, rxne := true } ∧
      SameElsewhere c s t ∧ TaskSame s t ∧ t.draws = s.draws ∧ t.hist = s.hist ++ [.rxArrive c b]

/-- R137, R50: a byte that arrives while one is pending is an overrun: `OVR` is set, one of the two bytes survives, and
which one is free (the statement holds for every draw). -/
def Obligations.RxArriveOverrunLosesOneByte : Prop :=
  ∀ (s : State) (ch : ChanId) (c : Chan) (b : Byte),
    chanOfId ch = some c → s.pinsClocksReady c = true → (s.chan c).inited = true → (s.chan c).rxne = true →
    ∃ t x, exec (.rxArrive ch b) s = .next t ∧ (x = (s.chan c).rdr ∨ x = b) ∧
      t.chan c = { s.chan c with ovr := true, rdr := x } ∧
      SameElsewhere c s t ∧ TaskSame s t ∧ t.hist = s.hist ++ [.rxArrive c b, .overrun c]

/-- R139, R140, R159: the forced completions, stimulus only, on an initialized channel, whatever the cursor and the flag
say; `RXNE` and `RDR` are not written. -/
def Obligations.ForcedCompletionClearsItsFlag : Prop :=
  ∀ (s : State) (ch : ChanId) (c : Chan),
    chanOfId ch = some c → s.pinsClocksReady c = true → (s.chan c).inited = true →
    (∃ t, exec (.forceTxCplt ch) s = .next t ∧
      t.chan c = { s.chan c with tx := { (s.chan c).tx with run := false }, tc := false, txBusy := false } ∧
      SameElsewhere c s t ∧ TaskSame s t ∧ t.draws = s.draws ∧ t.hist = s.hist ++ [.cplt c .tx]) ∧
    (∃ t, exec (.forceRxCplt ch) s = .next t ∧
      t.chan c = { s.chan c with rx := { (s.chan c).rx with run := false }, rxBusy := false } ∧
      SameElsewhere c s t ∧ TaskSame s t ∧ t.draws = s.draws ∧ t.hist = s.hist ++ [.cplt c .rx])

/-! ## The interrupt service routine (60_exceptions.md section 3) -/

/-- R174, R176: `IrqTC` under its enabling condition acknowledges the event and advances the cursor; on the last byte's
event, and only then, the engine disengages and the callback clears the TX flag of that channel. With no transmit engaged
the event is spurious and only acknowledged. -/
def Obligations.IrqTCAdvancesTheTransmitCursor : Prop :=
  ∀ (s : State) (ch : ChanId) (c : Chan),
    chanOfId ch = some c → s.pinsClocksReady c = true → (s.chan c).ven = true → (s.chan c).ieTc = true → (s.chan c).tc = true →
    ∃ t, exec (.irqTC ch) s = .next t ∧ SameElsewhere c s t ∧ TaskSame s t ∧ t.draws = s.draws ∧
      ((s.chan c).tx.run = true → (s.chan c).tx.cur + 1 = (s.chan c).tx.len →
        t.chan c = { s.chan c with
          tc := false, tx := { (s.chan c).tx with cur := (s.chan c).tx.cur + 1, run := false }, txBusy := false } ∧
        t.hist = s.hist ++ [.irq c .tc, .cplt c .tx]) ∧
      ((s.chan c).tx.run = true → (s.chan c).tx.cur + 1 ≠ (s.chan c).tx.len →
        t.chan c = { s.chan c with tc := false, tx := { (s.chan c).tx with cur := (s.chan c).tx.cur + 1 } } ∧
        t.hist = s.hist ++ [.irq c .tc]) ∧
      ((s.chan c).tx.run = false →
        t.chan c = { s.chan c with tc := false } ∧ t.hist = s.hist ++ [.irq c .tc])

/-- R175, R177, R63, R68: `IrqRXNE` with a receive engaged and the target byte admitted stores `RDR` at `PTR + CUR`, every
other byte of memory unchanged, and advances the cursor; on the last byte, and only then, the engine disengages and the
callback clears the RX flag of that channel. -/
def Obligations.IrqRXNEStoresTheReceivedByte : Prop :=
  ∀ (s : State) (ch : ChanId) (c : Chan),
    chanOfId ch = some c → s.pinsClocksReady c = true → (s.chan c).ven = true → (s.chan c).ieRxne = true → (s.chan c).rxne = true →
    (s.chan c).rx.run = true →
    s.admitted ((s.chan c).rx.ptr.toNat + (s.chan c).rx.cur.toNat) = true → s.mem.wf →
    ∃ t, exec (.irqRXNE ch) s = .next t ∧
      t.mem.read ((s.chan c).rx.ptr.toNat + (s.chan c).rx.cur.toNat) = (s.chan c).rdr ∧
      (∀ a, a ≠ (s.chan c).rx.ptr.toNat + (s.chan c).rx.cur.toNat → t.mem.read a = s.mem.read a) ∧
      (∀ c', c' ≠ c → t.chan c' = s.chan c') ∧ LaunchSame s t ∧ TaskSame s t ∧ t.draws = s.draws ∧
      ((s.chan c).rx.cur + 1 = (s.chan c).rx.len →
        t.chan c = { s.chan c with
          rxne := false, rx := { (s.chan c).rx with cur := (s.chan c).rx.cur + 1, run := false }, rxBusy := false } ∧
        t.hist = s.hist ++ [.irq c .rxne,
          .rxStore c ((s.chan c).rx.ptr.toNat + (s.chan c).rx.cur.toNat) (s.chan c).rdr, .cplt c .rx]) ∧
      ((s.chan c).rx.cur + 1 ≠ (s.chan c).rx.len →
        t.chan c = { s.chan c with rxne := false, rx := { (s.chan c).rx with cur := (s.chan c).rx.cur + 1 } } ∧
        t.hist = s.hist ++ [.irq c .rxne,
          .rxStore c ((s.chan c).rx.ptr.toNat + (s.chan c).rx.cur.toNat) (s.chan c).rdr])

/-- R175, R117: `IrqRXNE` with no receive armed takes the byte and drops it: no byte of memory, no flag and no register
but `RXNE` changes. -/
def Obligations.IrqRXNEDiscardsAnUnsolicitedByte : Prop :=
  ∀ (s : State) (ch : ChanId) (c : Chan),
    chanOfId ch = some c → s.pinsClocksReady c = true → (s.chan c).ven = true → (s.chan c).ieRxne = true → (s.chan c).rxne = true →
    (s.chan c).rx.run = false →
    ∃ t, exec (.irqRXNE ch) s = .next t ∧ t.chan c = { s.chan c with rxne := false } ∧
      SameElsewhere c s t ∧ TaskSame s t ∧ t.draws = s.draws ∧
      t.hist = s.hist ++ [.irq c .rxne, .rxDiscard c (s.chan c).rdr]

/-- R89, R135, R137, R139, R140, R174, R175: an event answers a next state exactly under its rule's enabling condition;
otherwise, on a known channel, it is refused as not enabled, and on an unknown channel refused as such. -/
def Obligations.EventsMoveExactlyWhenEnabled : Prop :=
  ∀ (s : State) (i : Instr) (ch : ChanId), i.format = .event → i.channel = some ch →
    (∀ c, chanOfId ch = some c → s.pinsClocksReady c = true →
      ((∃ t, exec i s = .next t) ↔
        match i with
        | .txEmit _ => (s.chan c).inited = true ∧ (s.chan c).tx.run = true ∧ (s.chan c).tc = false ∧
            s.admitted ((s.chan c).tx.ptr.toNat + (s.chan c).tx.cur.toNat) = true
        | .irqTC _ => (s.chan c).ven = true ∧ (s.chan c).ieTc = true ∧ (s.chan c).tc = true
        | .irqRXNE _ => (s.chan c).ven = true ∧ (s.chan c).ieRxne = true ∧ (s.chan c).rxne = true ∧
            ((s.chan c).rx.run = false ∨ s.admitted ((s.chan c).rx.ptr.toNat + (s.chan c).rx.cur.toNat) = true)
        | _ => (s.chan c).inited = true) ∧
      ((∃ t, exec i s = .next t) ∨ exec i s = .refused .eventNotEnabled)) ∧
    (2 ≤ ch.toNat → exec i s = .refused .eventUnknownChannel)

/-- R170: the interrupt of a channel is requested exactly when one of its sources is pending and enabled and the vector is
registered; and then, unless a byte waits for an unadmitted address, an ISR step of the channel can be taken. -/
def Obligations.RequestedInterruptCanBeTaken : Prop :=
  ∀ (s : State) (ch : ChanId) (c : Chan), chanOfId ch = some c → s.pinsClocksReady c = true →
    (irqRequest (s.chan c) = true ↔ (s.chan c).ven = true ∧
      (((s.chan c).rxne = true ∧ (s.chan c).ieRxne = true) ∨ ((s.chan c).tc = true ∧ (s.chan c).ieTc = true))) ∧
    (irqRequest (s.chan c) = true →
      ((s.chan c).rx.run = true → s.admitted ((s.chan c).rx.ptr.toNat + (s.chan c).rx.cur.toNat) = true) →
      (∃ t, exec (.irqTC ch) s = .next t) ∨ (∃ t, exec (.irqRXNE ch) s = .next t))

/-- R171: two ISR steps that are both enabled, of different channels or of the two sources of one channel, can be taken in
either order, and the state after both is the same but for the order of the history. Two stores to one address are left
out: R171 does not hold for them (two receives armed on overlapping buffers, log 20). -/
def Obligations.IsrStepsCommute : Prop :=
  ∀ (s t u : State) (i j : Instr), PinsClocksReady s → s.mem.wf → i.context = .interrupt → j.context = .interrupt → i ≠ j →
    (∀ ch ch' c c', i = .irqRXNE ch → j = .irqRXNE ch' → chanOfId ch = some c → chanOfId ch' = some c' →
      (s.chan c).rx.run = true → (s.chan c').rx.run = true →
      (s.chan c).rx.ptr.toNat + (s.chan c).rx.cur.toNat ≠ (s.chan c').rx.ptr.toNat + (s.chan c').rx.cur.toNat) →
    exec i s = .next t → exec j s = .next u →
    ∃ v w, exec j t = .next v ∧ exec i u = .next w ∧ { v with hist := w.hist } = w ∧ v.hist.Perm w.hist

/-! ## Invariants (45_state_machine.md section 2) -/

/-- R150 to R153: the reset state meets the invariant of the machine. -/
def Obligations.ResetMeetsTheInvariant : Prop := StateInv State.reset ∧ LineCounted State.reset

/-- R150, R151, R152, R153 and the canonical form of memory: from every state that meets the invariant, every step,
forced events and outside writes among them, gives a state that meets it. -/
def Obligations.StepKeepsTheInvariant : Prop :=
  ∀ s t : State, StateInv s → step s = .next t → StateInv t

/-- R154: every step keeps the count of bytes handed to the line since the arming; and, if the step leaves the buffer's
bytes alone, it keeps that those bytes are the buffer's first ones, in order. -/
def Obligations.StepKeepsTheLineAccount : Prop :=
  ∀ s t : State, StateInv s → step s = .next t →
    (LineCounted s → LineCounted t) ∧
    ∀ c, s.pinsClocksReady c = true → LineIsBuffer c s → BufferKept (s.chan c).tx s t → LineIsBuffer c t

/-! ## Whole-machine rules -/

/-- R40: a step of channel `c` neither writes nor reads an element of another channel: whatever the other channel's slot
holds, the step has the same outcome and leaves that slot as it was. -/
def Obligations.StepOfOneChannelIgnoresTheOther : Prop :=
  ∀ (s : State) (i : Instr) (ch : ChanId) (c c' : Chan) (x : ChanState),
    i.channel = some ch → chanOfId ch = some c → s.pinsClocksReady c = true → c' ≠ c →
    (∀ t, exec i s = .next t → t.chan c' = s.chan c' ∧ exec i (s.setChan c' x) = .next (t.setChan c' x)) ∧
    (∀ f, exec i s = .fault f → exec i (s.setChan c' x) = .fault f) ∧
    (∀ f, exec i s = .refused f → exec i (s.setChan c' x) = .refused f)

/-- R29, R54, R119: a step of the TX direction writes no RX element of any channel and no byte of memory, and a step of the
RX direction no TX element. -/
def Obligations.DirectionsAreIndependent : Prop :=
  ∀ (s t : State) (ch : ChanId) (a b : Word) (byte : Byte) (i : Instr),
    (∀ c, chanOfId ch = some c → s.pinsClocksReady c = true) → exec i s = .next t →
    (i ∈ [.send ch a b, .isSendComplete ch, .abortSend ch, .txEmit ch, .irqTC ch, .forceTxCplt ch] →
      MemSame s t ∧ ∀ c, (t.chan c).rx = (s.chan c).rx ∧ (t.chan c).rxBusy = (s.chan c).rxBusy ∧
        (t.chan c).rxne = (s.chan c).rxne ∧ (t.chan c).rdr = (s.chan c).rdr ∧ (t.chan c).ovr = (s.chan c).ovr) ∧
    (i ∈ [.receive ch a b, .isReceiveComplete ch, .abortReceive ch, .rxArrive ch byte, .irqRXNE ch, .forceRxCplt ch] →
      ∀ c, (t.chan c).tx = (s.chan c).tx ∧ (t.chan c).txBusy = (s.chan c).txBusy ∧
        (t.chan c).tc = (s.chan c).tc ∧ (t.chan c).txLine = (s.chan c).txLine)

/-- R24, R25, R27, R28, R191: once a channel is initialized, no step clears `INITED`, an enable or `VEN`, and none changes
its baud rate or priority. -/
def Obligations.InitialisationIsPermanent : Prop :=
  ∀ (s t : State) (c : Chan), s.pinsClocksReady c = true → step s = .next t → (s.chan c).inited = true →
    (t.chan c).inited = true ∧ (t.chan c).baud = (s.chan c).baud ∧ (t.chan c).prio = (s.chan c).prio ∧
    ((s.chan c).ieRxne = true → (t.chan c).ieRxne = true) ∧
    ((s.chan c).ieTc = true → (t.chan c).ieTc = true) ∧ ((s.chan c).ven = true → (t.chan c).ven = true)

/-- R30, R112, R128: only `send` and `receive` set a busy flag, each its own, in task context: a flag that a step turns
from clear to set belongs to the channel and direction that step armed. So a 1 answer of a query stays true until the
task's own next arming on that channel and direction. -/
def Obligations.OnlyArmingSetsAFlag : Prop :=
  ∀ (s t : State) (c : Chan) (d : Dir), s.pinsClocksReady c = true → step s = .next t →
    (s.chan c).busy d = false → (t.chan c).busy d = true →
    ∃ ch ptr len, chanOfId ch = some c ∧ s.fault = none ∧ s.schedule.head? = some .task ∧
      nextInstr s = some (match d with | .tx => .send ch ptr len | .rx => .receive ch ptr len)

/-- R30, R176 to R178, R159: a step that clears a set flag of `(c, d)` is an abort of `(c, d)`, a completion of `(c, d)`
(its callback logged), or `initialize` of `c`: never a step of another channel, never of the other direction. -/
def Obligations.OnlyItsOwnStepsClearAFlag : Prop :=
  ∀ (s t : State) (c : Chan) (d : Dir), s.pinsClocksReady c = true → step s = .next t →
    (s.chan c).busy d = true → (t.chan c).busy d = false →
    ∃ i ch, nextInstr s = some i ∧ i.channel = some ch ∧ chanOfId ch = some c ∧
      ((∃ baud, i = .initialise ch baud) ∨
        (i = (match d with | .tx => .abortSend ch | .rx => .abortReceive ch) ∧ t.hist = s.hist ++ [.cancel c d]) ∨
        ((i = (match d with | .tx => .irqTC ch | .rx => .irqRXNE ch) ∨
          i = (match d with | .tx => .forceTxCplt ch | .rx => .forceRxCplt ch)) ∧
          t.hist.getLast? = some (.cplt c d)))

/-- R41, R62, R63, R68: memory changes only by an outside write, at its address, or by `IrqRXNE` with a receive engaged, at
`PTR + CUR`, an admitted address below 2^32. -/
def Obligations.OnlyReceiveStoresChangeMemory : Prop :=
  ∀ (s t : State) (a : Nat), PinsClocksReady s → step s = .next t → t.mem.read a ≠ s.mem.read a →
    (∃ w v, s.schedule.head? = some (.write w v) ∧ a = w.toNat) ∨
    (∃ ch c, nextInstr s = some (.irqRXNE ch) ∧ chanOfId ch = some c ∧ (s.chan c).rx.run = true ∧
      a = (s.chan c).rx.ptr.toNat + (s.chan c).rx.cur.toNat ∧ s.admitted a = true ∧ a < 2 ^ 32)

/-- R62, R63, R64: a byte written reads back, and every other byte reads as before, on every memory in canonical form; and
writing keeps the form. -/
def Obligations.MemoryReadsWhatWasWritten : Prop :=
  ∀ (m : Memory) (a b : Nat) (v : Byte), m.wf → a < 2 ^ 32 →
    (m.write a v).read b = (if b = a then v else m.read b) ∧ (m.write a v).wf

/-- The model's choice (log 6), no rule of the spec: the listing of the data memory (R60) is canonical, so two memories in that
form that read the same at every address are equal data. -/
def Obligations.EqualReadsMeanEqualMemories : Prop :=
  ∀ m m' : Memory, m.wf → m'.wf → (∀ a, m.read a = m'.read a) → m = m'

/-- R44, R54: the task program and the launch parameters are never modified. That a step takes exactly one line of the
schedule (R91) is the model's mechanism (log 1, log 2, DESIGN CHOICE). -/
def Obligations.ProgramAndLaunchNeverChange : Prop :=
  ∀ s t : State, step s = .next t →
    t.program = s.program ∧ t.launch = s.launch ∧ ∃ l, s.schedule = l :: t.schedule

/-- R47, R48, R50: the history only grows; the bytes handed to a line only grow, by `TxEmit` of that channel alone, one byte
a step; `OVR` is never cleared. -/
def Obligations.GhostStateOnlyGrows : Prop :=
  ∀ s t : State, step s = .next t →
    (∃ es, t.hist = s.hist ++ es) ∧
    ∀ c, s.pinsClocksReady c = true →
      ((s.chan c).ovr = true → (t.chan c).ovr = true) ∧
      ((t.chan c).txLine = (s.chan c).txLine ∨
        ∃ ch b, nextInstr s = some (.txEmit ch) ∧ chanOfId ch = some c ∧
          (t.chan c).txLine = (s.chan c).txLine ++ [b] ∧ t.hist = s.hist ++ [.txByte c b])

/-- R103, R153: on a channel that was never initialized no event is enabled, in every state that meets the invariant. -/
def Obligations.UninitialisedChannelHasNoEvent : Prop :=
  ∀ (s : State) (i : Instr) (ch : ChanId) (c : Chan), StateInv s →
    i.format = .event → i.channel = some ch → chanOfId ch = some c →
    s.pinsClocksReady c = true → (s.chan c).inited = false →
    exec i s = .refused .eventNotEnabled

/-- R45, R213: without fault a task line answers a next state exactly while the task is unfinished, whatever the statement
is. With `tpc` at the program's length (or past it, in states no run reaches) it answers none, final state or not, fault or
not; the model's refusal then is `taskFinished` (log 23). -/
def Obligations.TaskLineMovesExactlyWhileUnfinished : Prop :=
  ∀ (s : State) (rest : List Line), s.schedule = .task :: rest →
    (PinsClocksReady s → s.fault = none → ((∃ t, step s = .next t) ↔ s.tpc < s.program.length)) ∧
    (s.program.length ≤ s.tpc →
      (∀ t, step s ≠ .next t) ∧ (s.fault = none → step s = .refused .taskFinished))

/-- R213: a final state is final up to further input: the only lines that move it are an arriving byte, a forced event of a
test, or an outside write. -/
def Obligations.FinalStateMovesOnlyOnInput : Prop :=
  ∀ (s t : State) (l : Line), PinsClocksReady s → Final s → move l s = .next t →
    (∃ ch b, LineRuns l (.rxArrive ch b)) ∨ LineForced l ∨ (∃ a v, l = .write a v)

/-- R159 (a), (b), R142: an abort and a completion are idempotent: after one that raised no fault, its flag is clear and its
engine disengaged, and the same step again leaves every element of every channel and every byte of memory as the first left
it. A forced completion never raises one, and runs whatever `FAULT` holds. -/
def Obligations.AbortAndCompletionAreIdempotent : Prop :=
  ∀ (s t : State) (ch : ChanId) (c : Chan) (i : Instr),
    chanOfId ch = some c → s.pinsClocksReady c = true → t.fault = s.fault →
    i ∈ [.abortSend ch, .abortReceive ch, .forceTxCplt ch, .forceRxCplt ch] → exec i s = .next t →
    (i = .abortSend ch ∨ i = .forceTxCplt ch → (t.chan c).txBusy = false ∧ (t.chan c).tx.run = false) ∧
    (i = .abortReceive ch ∨ i = .forceRxCplt ch → (t.chan c).rxBusy = false ∧ (t.chan c).rx.run = false) ∧
    ∃ u, exec i t = .next u ∧ (∀ c', u.chan c' = t.chan c') ∧ MemSame t u

/-! ## Transfers, over runs (45_state_machine.md section 3, 70_reset_and_hazards.md R212) -/

/-- R157: from a state in which a transmit is armed with its cursor at 0 and no event pending, along any run of the
machine proper in which no step aborts it, the buffer stays as it was and the flag stays set until the last step: when the
flag is clear, the line has grown by exactly the buffer's bytes in ascending order, and the transmit events since the
arming are exactly `len` pairs of `TXBYTE` and `IRQ(TC)`, alternating. -/
def Obligations.CompletedSendPutTheBufferOnTheLine : Prop :=
  ∀ (s t u : State) (c : Chan) (e : Engine),
    s.pinsClocksReady c = true → StateInv s → (s.chan c).tx = e → e.run = true → e.cur = 0 → (s.chan c).tc = false →
    Run (fun a b => BufferKept e a b ∧ (b.chan c).txBusy = true ∧ cancelcount c .tx b.hist = cancelcount c .tx a.hist)
      s t →
    ProperStep t u → cancelcount c .tx u.hist = cancelcount c .tx t.hist → (u.chan c).txBusy = false →
    (u.chan c).txLine = (s.chan c).txLine ++ (List.range e.len.toNat).map (fun i => s.mem.read (e.ptr.toNat + i)) ∧
    ∃ es, u.hist = s.hist ++ es ∧
      es.filter (Event.isTransmit c) =
        (List.range e.len.toNat).flatMap (fun i => [.txByte c (s.mem.read (e.ptr.toNat + i)), .irq c .tc])

/-- R158: from a state in which a receive is armed with its cursor at 0, along any run of the machine proper in which no
step aborts it, no byte is lost and the flag stays set until the last step: when the flag is clear, the bytes stored since
the arming went to `ptr .. ptr+len-1` in order, and they are the byte that was pending at the arming, if one was, followed
by the bytes that arrived since. -/
def Obligations.CompletedReceiveStoredTheArrivals : Prop :=
  ∀ (s t u : State) (c : Chan) (e : Engine),
    s.pinsClocksReady c = true → StateInv s → (s.chan c).rx = e → e.run = true → e.cur = 0 →
    Run (fun a b => (b.chan c).rxBusy = true ∧ (b.chan c).ovr = false ∧
      cancelcount c .rx b.hist = cancelcount c .rx a.hist) s t →
    ProperStep t u → (u.chan c).ovr = false → cancelcount c .rx u.hist = cancelcount c .rx t.hist →
    (u.chan c).rxBusy = false →
    ∃ es, u.hist = s.hist ++ es ∧
      (es.filterMap (Event.store c)).map Prod.fst = (List.range e.len.toNat).map (fun i => e.ptr.toNat + i) ∧
      (es.filterMap (Event.store c)).map Prod.snd =
        (if (s.chan c).rxne then [(s.chan c).rdr] else []) ++ es.filterMap (Event.arrival c)

/-- R71 (2), R118: under R158's premises, if moreover no step but the channel's own `IrqRXNE` changes the buffer, then when
the flag is clear the buffer holds the bytes stored, in order. -/
def Obligations.CompletedReceiveLeftTheBytesInTheBuffer : Prop :=
  ∀ (s t u : State) (c : Chan) (e : Engine),
    s.pinsClocksReady c = true → StateInv s → (s.chan c).rx = e → e.run = true → e.cur = 0 →
    Run (fun a b => (b.chan c).rxBusy = true ∧ cancelcount c .rx b.hist = cancelcount c .rx a.hist ∧
      ((∃ ch, nextInstr a = some (.irqRXNE ch) ∧ chanOfId ch = some c) ∨ BufferKept e a b)) s t →
    ProperStep t u → cancelcount c .rx u.hist = cancelcount c .rx t.hist → (u.chan c).rxBusy = false →
    ∃ es, u.hist = s.hist ++ es ∧
      (List.range e.len.toNat).map (fun i => u.mem.read (e.ptr.toNat + i)) =
        (es.filterMap (Event.store c)).map Prod.snd

/-- R212: under weak fairness of its own `TxEmit` and `IrqTC` steps, and with its buffer admitted, an armed transmit does
not stay armed for ever. -/
def Obligations.FairTransmitEnds : Prop :=
  ∀ (ln : Nat → Line) (st : Nat → State) (c : Chan),
    Endless ln st → FairTransmit c ln st → (st 0).pinsClocksReady c = true → StateInv (st 0) → ((st 0).chan c).tx.run = true →
    (∀ i, i < ((st 0).chan c).tx.len.toNat → (st 0).admitted (((st 0).chan c).tx.ptr.toNat + i) = true) →
    ∃ n, ((st n).chan c).txBusy = false

/-- R212: under weak fairness of its own `IrqRXNE` step, with its buffer admitted, and if bytes keep arriving for ever, an armed
receive does not stay armed for ever. That they arrive is a premise and no fairness: the environment owes no byte. -/
def Obligations.FairReceiveEndsIfBytesKeepArriving : Prop :=
  ∀ (ln : Nat → Line) (st : Nat → State) (c : Chan),
    Endless ln st → FairReceive c ln st → (st 0).pinsClocksReady c = true → StateInv (st 0) →
    ((st 0).chan c).rx.run = true →
    (∀ i, i < ((st 0).chan c).rx.len.toNat → (st 0).admitted (((st 0).chan c).rx.ptr.toNat + i) = true) →
    (∀ n, ∃ m b, n ≤ m ∧ LineRuns (ln m) (.rxArrive (idOfChan c) b)) →
    ∃ n, ((st n).chan c).rxBusy = false

/-- R174, R135, R212: an armed transmit with an admitted buffer and no event pending can be run to its end: the schedule
that alternates `TxEmit` and `IrqTC`, once for each byte left, takes the machine to a state in which the flag is clear and
every byte left is on the line, in order. -/
def Obligations.ArmedTransmitCanBeRunToItsEnd : Prop :=
  ∀ (s : State) (c : Chan) (k : Nat) (rest : List Line),
    s.pinsClocksReady c = true → StateInv s → (s.chan c).tx.run = true → (s.chan c).tc = false →
    (s.chan c).tx.cur.toNat + k = (s.chan c).tx.len.toNat →
    (∀ i, i < (s.chan c).tx.len.toNat → s.admitted ((s.chan c).tx.ptr.toNat + i) = true) →
    s.schedule = (List.replicate k [Line.event (encode (.txEmit (idOfChan c))),
      Line.event (encode (.irqTC (idOfChan c)))]).flatten ++ rest →
    ∃ t, Host.Core.run Sys2Proof.core (2 * k) s = .next t ∧ (t.chan c).txBusy = false ∧ t.schedule = rest ∧
      (t.chan c).txLine = (s.chan c).txLine ++
        (List.range k).map (fun i => s.mem.read ((s.chan c).tx.ptr.toNat + (s.chan c).tx.cur.toNat + i))
end

