-- ==== Sys2Proof/Laws/Decode.lean ====
section
/-! SUPPORT. The fields of a header word, the opcode table's masks in terms of the fields, and what a decoded packet looks
like: one lemma that says everything an accepted packet is. -/

namespace Sys2Proof

theorem header_op (op ch : BitVec 8) : (headerWord op ch).extractLsb' 24 8 = op := by
  apply BitVec.eq_of_getElem_eq
  intro i hi
  have h : 24 + i - 16 ≥ 8 := by omega
  have h1 : 24 + i < 32 := by omega
  simp [headerWord, BitVec.getLsbD_of_ge ch _ h, hi, h1]

theorem header_ch (op ch : BitVec 8) : (headerWord op ch).extractLsb' 16 8 = ch := by
  apply BitVec.eq_of_getElem_eq
  intro i hi
  have h : 16 + i < 24 := by omega
  have h1 : 16 + i < 32 := by omega
  simp [headerWord, h, hi, h1]

theorem header_rsv (op ch : BitVec 8) : (headerWord op ch).extractLsb' 0 16 = 0 := by
  apply BitVec.eq_of_getElem_eq
  intro i hi
  have h : i < 24 := by omega
  simp [headerWord, h, hi]

/-- A header word is its three fields. -/
theorem header_of_fields (w : Word) (h : w.extractLsb' 0 16 = 0) :
    w = headerWord (w.extractLsb' 24 8) (w.extractLsb' 16 8) := by
  apply BitVec.eq_of_getLsbD_eq
  intro i hi
  by_cases h16 : i < 16
  · have hb := congrArg (fun v : BitVec 16 => v.getLsbD i) h
    simp [h16] at hb
    have h24 : i < 24 := by omega
    simp [headerWord, hb, h16, h24]
  · by_cases h24 : i < 24
    · have e : 16 + (i - 16) = i := by omega
      have h1 : i - 16 < 8 := by omega
      simp [headerWord, h16, h24, hi, e, h1]
    · have e : 24 + (i - 24) = i := by omega
      have h1 : i - 24 < 8 := by omega
      have h3 : ¬ i - 16 < 8 := by omega
      simp [headerWord, h16, h24, hi, e, h1, h3]

/-- The mask of a command or event row keeps the opcode and the reserved field (R84). -/
theorem mask_matches (w : Word) (op : BitVec 8) :
    w &&& 0xFF00FFFF#32 = op.setWidth 32 <<< 24 ↔ w.extractLsb' 24 8 = op ∧ w.extractLsb' 0 16 = 0 := by
  constructor
  · intro h
    have bit (i : Nat) : (w &&& 0xFF00FFFF#32).getLsbD i = (op.setWidth 32 <<< 24).getLsbD i := by rw [h]
    constructor
    · apply BitVec.eq_of_getLsbD_eq
      intro i hi
      have hb := bit (24 + i)
      interval_cases i <;> simpa using hb
    · apply BitVec.eq_of_getLsbD_eq
      intro i hi
      have hb := bit i
      interval_cases i <;> simpa using hb
  · rintro ⟨h1, h2⟩
    rw [header_of_fields w h2, h1]
    apply BitVec.eq_of_getLsbD_eq
    intro i hi
    interval_cases i <;> simp [headerWord]

/-- The mask of `brz` keeps the whole header word (R89). -/
theorem mask_matches_brz (w : Word) :
    w &&& 0xFFFFFFFF#32 = (0x20 : BitVec 8).setWidth 32 <<< 24 ↔
      w.extractLsb' 24 8 = 0x20 ∧ w.extractLsb' 0 16 = 0 ∧ w.extractLsb' 16 8 = 0 := by
  have hw : w &&& 0xFFFFFFFF#32 = w := BitVec.and_allOnes (w := 32) (x := w)
  rw [hw]
  constructor
  · intro h; subst h; decide
  · rintro ⟨h1, h2, h3⟩
    rw [header_of_fields w h2, h1, h3]; decide

/-- A conditional that has a value has it by one of its branches. -/
theorem of_ite_eq {α : Type} {c : Prop} [Decidable c] {a b x : α} (h : (if c then a else b) = x) :
    (c ∧ a = x) ∨ (¬ c ∧ b = x) := by
  by_cases hc : c
  · exact .inl ⟨hc, by rwa [if_pos hc] at h⟩
  · exact .inr ⟨hc, by rwa [if_neg hc] at h⟩

/-- The fields a term takes from its packet (R82, R83, R89). -/
def HasFieldsOf (p : Packet) : Instr → Prop
  | .initialise ch baud => ch = p.ch ∧ baud = p.w1
  | .send ch ptr len => ch = p.ch ∧ ptr = p.w1 ∧ len = p.w2
  | .receive ch ptr len => ch = p.ch ∧ ptr = p.w1 ∧ len = p.w2
  | .isSendComplete ch => ch = p.ch
  | .isReceiveComplete ch => ch = p.ch
  | .abortSend ch => ch = p.ch
  | .abortReceive ch => ch = p.ch
  | .txEmit ch => ch = p.ch
  | .rxArrive ch byte => ch = p.ch ∧ byte = p.byte
  | .irqTC ch => ch = p.ch
  | .irqRXNE ch => ch = p.ch
  | .forceTxCplt ch => ch = p.ch
  | .forceRxCplt ch => ch = p.ch
  | .brz target => p.ch = 0 ∧ target = p.w1

/-- Everything an accepted packet is: no reserved bits, the term's opcode, its channel field, and its operand words. -/
theorem decode_ok {p : Packet} {i : Instr} (h : decode p = .ok i) :
    p.rsv = 0 ∧ p.op = i.opcode ∧ HasFieldsOf p i := by
  unfold decode at h
  rcases of_ite_eq h with ⟨_, h⟩ | ⟨hr, h⟩
  · cases h
  have hr' : p.rsv = 0 := Decidable.not_not.1 hr
  iterate 13
    rcases of_ite_eq h with ⟨ho, h⟩ | ⟨_, h⟩
    · cases h; exact ⟨hr', ho, by simp [HasFieldsOf]⟩
  rcases of_ite_eq h with ⟨ho, h⟩ | ⟨_, h⟩
  · rcases of_ite_eq h with ⟨hc, h⟩ | ⟨_, h⟩
    · cases h; exact ⟨hr', ho, hc, rfl⟩
    · cases h
  · cases h

/-- A rejected packet has reserved bits set, an opcode of no row, or is a `brz` with a channel. -/
theorem decode_error {p : Packet} {e : Reject} (h : decode p = .error e) :
    p.rsv ≠ 0 ∨ (∀ i : Instr, p.op ≠ i.opcode) ∨ (p.op = 0x20 ∧ p.ch ≠ 0) := by
  unfold decode at h
  rcases of_ite_eq h with ⟨hr, _⟩ | ⟨_, h⟩
  · exact .inl hr
  iterate 13
    rcases of_ite_eq h with ⟨_, h⟩ | ⟨_, h⟩
    · cases h
  rcases of_ite_eq h with ⟨ho, h⟩ | ⟨_, h⟩
  · rcases of_ite_eq h with ⟨_, h⟩ | ⟨hc, _⟩
    · cases h
    · exact .inr (.inr ⟨ho, hc⟩)
  · refine .inr (.inl ?_)
    intro i
    cases i <;> assumption

/-- A port's decoder accepts what the decoder reads and the port allows. -/
theorem decodeOn_ok_iff {accept : Instr → Bool} {p : Packet} {i : Instr} :
    decodeOn accept p = .ok i ↔ decode p = .ok i ∧ accept i = true := by
  unfold decodeOn
  cases hd : decode p with
  | error e => simp
  | ok j =>
    by_cases ha : accept j = true
    · simp only [ha, if_true, Except.ok.injEq]
      constructor
      · rintro rfl; exact ⟨rfl, ha⟩
      · exact And.left
    · simp only [ha, if_false, Except.ok.injEq, Bool.false_eq_true]
      constructor
      · intro h; cases h
      · rintro ⟨rfl, h⟩; exact absurd h ha

end Sys2Proof
end

