-- ==== Sys2Proof/Laws/Memory.lean ====
section
/-! SUPPORT. The laws of the data memory: reading the byte written, reading every other byte, keeping the canonical form. -/

namespace Sys2Proof.Machine

@[simp] theorem Memory.read_nil (a : Nat) : Memory.read [] a = Memory.unlisted := rfl

theorem Memory.read_cons (k : Nat) (v : Byte) (m : Memory) (a : Nat) :
    Memory.read ((k, v) :: m) a = if a = k then v else Memory.read m a := rfl

/-- An address below every listed one reads as unlisted. -/
theorem Memory.read_of_below {m : Memory} {a : Nat} (h : ∀ cell ∈ m, a < cell.1) : Memory.read m a = Memory.unlisted := by
  induction m with
  | nil => rfl
  | cons x m ih =>
    obtain ⟨k, v⟩ := x
    have hk := h (k, v) (by simp)
    rw [Memory.read_cons, if_neg (by omega)]
    exact ih (fun cell hc => h cell (by simp [hc]))

theorem Memory.read_put (a : Nat) (v : Byte) (m : Memory) (b : Nat) (h : ∀ cell ∈ m, a < cell.1) :
    Memory.read (Memory.put a v m) b = if b = a then v else Memory.read m b := by
  unfold Memory.put
  split
  · next hv =>
    split
    · next hb => rw [hb, Memory.read_of_below h, hv]
    · rfl
  · rfl

/-- The cells after a write are the written one and cells listed before. -/
theorem Memory.mem_write {m : Memory} {a : Nat} {v : Byte} {cell : Host.Cell} (h : cell ∈ m.write a v) :
    cell ∈ m ∨ cell = (a, v) ∧ v ≠ Memory.unlisted := by
  induction m with
  | nil =>
    unfold Memory.write Memory.put at h
    split at h
    · simp at h
    · next hv => exact .inr ⟨by simpa using h, hv⟩
  | cons x m ih =>
    obtain ⟨k, w⟩ := x
    unfold Memory.write Memory.put at h
    split at h
    · split at h
      · exact .inl h
      · next hv => rcases List.mem_cons.1 h with h | h
                   · exact .inr ⟨h, hv⟩
                   · exact .inl h
    · split at h
      · split at h
        · exact .inl (List.mem_cons_of_mem _ h)
        · next hv => rcases List.mem_cons.1 h with h | h
                     · exact .inr ⟨h, hv⟩
                     · exact .inl (List.mem_cons_of_mem _ h)
      · rcases List.mem_cons.1 h with h | h
        · exact .inl (by simp [h])
        · rcases ih h with h | h
          · exact .inl (List.mem_cons_of_mem _ h)
          · exact .inr h

theorem Memory.wf_cons {x : Host.Cell} {m : Memory} (h : Memory.wf (x :: m)) :
    (∀ cell ∈ m, x.1 < cell.1) ∧ Memory.wf m :=
  ⟨(List.pairwise_cons.1 h.1).1, (List.pairwise_cons.1 h.1).2, fun cell hc => h.2 cell (List.mem_cons_of_mem _ hc)⟩

/-- Reading after a write, on a memory in canonical form (R62, R63). -/
theorem Memory.read_write {m : Memory} (h : m.wf) (a : Nat) (v : Byte) (b : Nat) :
    (m.write a v).read b = if b = a then v else m.read b := by
  induction m with
  | nil => exact Memory.read_put a v [] b (by simp)
  | cons x m ih =>
    obtain ⟨k, w⟩ := x
    have hs := Memory.wf_cons h
    unfold Memory.write
    split
    · next hak =>
      refine Memory.read_put a v _ b ?_
      intro cell hc
      rcases List.mem_cons.1 hc with hc | hc
      · rw [hc]; exact hak
      · exact Nat.lt_trans hak (hs.1 cell hc)
    · split
      · next hak =>
        rw [Memory.read_put a v m b (by rw [hak]; exact hs.1), Memory.read_cons, hak]
        split <;> rfl
      · next hak =>
        rw [Memory.read_cons, Memory.read_cons, ih hs.2]
        by_cases hbk : b = k
        · rw [if_pos hbk, if_pos hbk, if_neg (by omega)]
        · rw [if_neg hbk, if_neg hbk]

/-- A write leaves every other byte alone, on every memory. -/
theorem Memory.read_write_other (m : Memory) {a k : Nat} (v : Byte) (h : a ≠ k) : (m.write k v).read a = m.read a := by
  have hp : ∀ r : Memory, (Memory.put k v r).read a = r.read a := by
    intro r
    unfold Memory.put
    split
    · rfl
    · rw [Memory.read_cons, if_neg h]
  induction m with
  | nil => exact hp []
  | cons x m ih =>
    obtain ⟨q, w⟩ := x
    unfold Memory.write
    split
    · exact hp _
    · split
      · next hkq => rw [hp, Memory.read_cons, if_neg (by omega)]
      · rw [Memory.read_cons, Memory.read_cons, ih]

/-- A write keeps the canonical form. -/
theorem Memory.wf_write {m : Memory} (h : m.wf) {a : Nat} (ha : a < 2 ^ 32) (v : Byte) : (m.write a v).wf := by
  refine ⟨?_, ?_⟩
  · induction m with
    | nil => unfold Memory.write Memory.put; split <;> simp
    | cons x m ih =>
      obtain ⟨k, w⟩ := x
      have hs := Memory.wf_cons h
      unfold Memory.write Memory.put
      split
      · next hak =>
        split
        · exact h.1
        · refine List.pairwise_cons.2 ⟨?_, h.1⟩
          intro cell hc
          rcases List.mem_cons.1 hc with hc | hc
          · rw [hc]; exact hak
          · exact Nat.lt_trans hak (hs.1 cell hc)
      · split
        · next hak =>
          split
          · exact hs.2.1
          · exact List.pairwise_cons.2 ⟨by rw [hak]; exact hs.1, hs.2.1⟩
        · next hlt hne =>
          refine List.pairwise_cons.2 ⟨?_, ih hs.2⟩
          intro cell hc
          rcases Memory.mem_write hc with hc | ⟨hc, -⟩
          · exact hs.1 cell hc
          · rw [hc]; show k < a; omega
  · intro cell hc
    rcases Memory.mem_write hc with hc | ⟨hc, hv⟩
    · exact h.2 cell hc
    · rw [hc]; exact ⟨ha, hv⟩

/-- The empty memory of State.reset is in canonical form. -/
theorem Memory.wf_nil : Memory.wf [] := ⟨List.Pairwise.nil, by simp⟩

/-- In canonical form no byte is listed at or above 2^32, so it reads as unlisted. -/
theorem Memory.read_of_outside {m : Memory} (h : m.wf) {a : Nat} (ha : 2 ^ 32 ≤ a) : m.read a = Memory.unlisted := by
  induction m with
  | nil => rfl
  | cons x m ih =>
    obtain ⟨k, w⟩ := x
    have hk := (h.2 (k, w) (by simp)).1
    rw [Memory.read_cons, if_neg (by simp only at hk; omega)]
    exact ih (Memory.wf_cons h).2

end Sys2Proof.Machine
end

