-- ==== Sys2Proof/Laws/State.lean ====
section
/-! SUPPORT. One lemma per field per update of State and of a channel's slot, so that no later proof unfolds a record
update. -/

namespace Sys2Proof.Machine

/-! Channels: reading after replacing. -/

@[simp] theorem State.chan_setChan_same (s : State) (c : Chan) (x : ChanState) : (s.setChan c x).chan c = x := by
  cases c <;> rfl

@[simp] theorem State.chan_setChan_other (s : State) (c c' : Chan) (x : ChanState) (h : c' ≠ c) :
    (s.setChan c x).chan c' = s.chan c' := by
  cases c <;> cases c' <;> first | rfl | exact absurd rfl h

theorem State.chan_setChan (s : State) (c c' : Chan) (x : ChanState) :
    (s.setChan c x).chan c' = if c' = c then x else s.chan c' := by
  cases c <;> cases c' <;> rfl

@[simp] theorem State.setChan_setChan (s : State) (c : Chan) (x y : ChanState) :
    (s.setChan c x).setChan c y = s.setChan c y := by
  cases c <;> rfl

@[simp] theorem State.setChan_chan (s : State) (c : Chan) : s.setChan c (s.chan c) = s := by
  cases c <;> rfl

/-- Rebuilding every field but the two slots leaves the channels as they are. -/
@[simp] theorem State.chan_mk (s : State) (f : Option FaultInfo) (m : Memory) (t : Nat) (r : Option Bool) (h : List Event)
    (p : List Packet) (q : List Line) (l : Launch) (n : Nat) (c : Chan) :
    State.chan ⟨s.ch1, s.ch2, f, m, t, r, h, p, q, l, n⟩ c = s.chan c := by cases c <;> rfl

/-! `State.setChan`. -/

@[simp] theorem State.setChan_fault (s : State) (c : Chan) (x : ChanState) : (s.setChan c x).fault = s.fault := by cases c <;> rfl
@[simp] theorem State.setChan_mem (s : State) (c : Chan) (x : ChanState) : (s.setChan c x).mem = s.mem := by cases c <;> rfl
@[simp] theorem State.setChan_tpc (s : State) (c : Chan) (x : ChanState) : (s.setChan c x).tpc = s.tpc := by cases c <;> rfl
@[simp] theorem State.setChan_r (s : State) (c : Chan) (x : ChanState) : (s.setChan c x).r = s.r := by cases c <;> rfl
@[simp] theorem State.setChan_hist (s : State) (c : Chan) (x : ChanState) : (s.setChan c x).hist = s.hist := by cases c <;> rfl
@[simp] theorem State.setChan_program (s : State) (c : Chan) (x : ChanState) : (s.setChan c x).program = s.program := by cases c <;> rfl
@[simp] theorem State.setChan_schedule (s : State) (c : Chan) (x : ChanState) : (s.setChan c x).schedule = s.schedule := by cases c <;> rfl
@[simp] theorem State.setChan_launch (s : State) (c : Chan) (x : ChanState) : (s.setChan c x).launch = s.launch := by cases c <;> rfl
@[simp] theorem State.setChan_draws (s : State) (c : Chan) (x : ChanState) : (s.setChan c x).draws = s.draws := by cases c <;> rfl

/-! `State.log`. -/

@[simp] theorem State.log_fault (s : State) (es : List Event) : (s.log es).fault = s.fault := rfl
@[simp] theorem State.log_mem (s : State) (es : List Event) : (s.log es).mem = s.mem := rfl
@[simp] theorem State.log_tpc (s : State) (es : List Event) : (s.log es).tpc = s.tpc := rfl
@[simp] theorem State.log_r (s : State) (es : List Event) : (s.log es).r = s.r := rfl
@[simp] theorem State.log_hist (s : State) (es : List Event) : (s.log es).hist = s.hist ++ es := rfl
@[simp] theorem State.log_program (s : State) (es : List Event) : (s.log es).program = s.program := rfl
@[simp] theorem State.log_schedule (s : State) (es : List Event) : (s.log es).schedule = s.schedule := rfl
@[simp] theorem State.log_launch (s : State) (es : List Event) : (s.log es).launch = s.launch := rfl
@[simp] theorem State.log_draws (s : State) (es : List Event) : (s.log es).draws = s.draws := rfl
@[simp] theorem State.log_chan (s : State) (es : List Event) (c' : Chan) : (s.log es).chan c' = s.chan c' := by cases c' <;> rfl

/-! `State.advance`. -/

@[simp] theorem State.advance_fault (s : State) : (s.advance).fault = s.fault := rfl
@[simp] theorem State.advance_mem (s : State) : (s.advance).mem = s.mem := rfl
@[simp] theorem State.advance_tpc (s : State) : (s.advance).tpc = s.tpc + 1 := rfl
@[simp] theorem State.advance_r (s : State) : (s.advance).r = s.r := rfl
@[simp] theorem State.advance_hist (s : State) : (s.advance).hist = s.hist := rfl
@[simp] theorem State.advance_program (s : State) : (s.advance).program = s.program := rfl
@[simp] theorem State.advance_schedule (s : State) : (s.advance).schedule = s.schedule := rfl
@[simp] theorem State.advance_launch (s : State) : (s.advance).launch = s.launch := rfl
@[simp] theorem State.advance_draws (s : State) : (s.advance).draws = s.draws := rfl
@[simp] theorem State.advance_chan (s : State) (c' : Chan) : (s.advance).chan c' = s.chan c' := by cases c' <;> rfl

/-! `memWrite`. -/

@[simp] theorem memWrite_fault (a : Nat) (v : Byte) (s : State) : (memWrite a v s).fault = s.fault := rfl
@[simp] theorem memWrite_mem (a : Nat) (v : Byte) (s : State) : (memWrite a v s).mem = s.mem.write a v := rfl
@[simp] theorem memWrite_tpc (a : Nat) (v : Byte) (s : State) : (memWrite a v s).tpc = s.tpc := rfl
@[simp] theorem memWrite_r (a : Nat) (v : Byte) (s : State) : (memWrite a v s).r = s.r := rfl
@[simp] theorem memWrite_hist (a : Nat) (v : Byte) (s : State) : (memWrite a v s).hist = s.hist := rfl
@[simp] theorem memWrite_program (a : Nat) (v : Byte) (s : State) : (memWrite a v s).program = s.program := rfl
@[simp] theorem memWrite_schedule (a : Nat) (v : Byte) (s : State) : (memWrite a v s).schedule = s.schedule := rfl
@[simp] theorem memWrite_launch (a : Nat) (v : Byte) (s : State) : (memWrite a v s).launch = s.launch := rfl
@[simp] theorem memWrite_draws (a : Nat) (v : Byte) (s : State) : (memWrite a v s).draws = s.draws := rfl
@[simp] theorem memWrite_chan (a : Nat) (v : Byte) (s : State) (c' : Chan) : (memWrite a v s).chan c' = s.chan c' := by cases c' <;> rfl

/-! `State.setEngine`. -/

@[simp] theorem State.setEngine_fault (s : State) (c : Chan) (d : Dir) (e : Engine) : (s.setEngine c d e).fault = s.fault := by cases c <;> rfl
@[simp] theorem State.setEngine_mem (s : State) (c : Chan) (d : Dir) (e : Engine) : (s.setEngine c d e).mem = s.mem := by cases c <;> rfl
@[simp] theorem State.setEngine_tpc (s : State) (c : Chan) (d : Dir) (e : Engine) : (s.setEngine c d e).tpc = s.tpc := by cases c <;> rfl
@[simp] theorem State.setEngine_r (s : State) (c : Chan) (d : Dir) (e : Engine) : (s.setEngine c d e).r = s.r := by cases c <;> rfl
@[simp] theorem State.setEngine_hist (s : State) (c : Chan) (d : Dir) (e : Engine) : (s.setEngine c d e).hist = s.hist := by cases c <;> rfl
@[simp] theorem State.setEngine_program (s : State) (c : Chan) (d : Dir) (e : Engine) : (s.setEngine c d e).program = s.program := by cases c <;> rfl
@[simp] theorem State.setEngine_schedule (s : State) (c : Chan) (d : Dir) (e : Engine) : (s.setEngine c d e).schedule = s.schedule := by cases c <;> rfl
@[simp] theorem State.setEngine_launch (s : State) (c : Chan) (d : Dir) (e : Engine) : (s.setEngine c d e).launch = s.launch := by cases c <;> rfl
@[simp] theorem State.setEngine_draws (s : State) (c : Chan) (d : Dir) (e : Engine) : (s.setEngine c d e).draws = s.draws := by cases c <;> rfl

@[simp] theorem State.setEngine_chan_same (s : State) (c : Chan) (d : Dir) (e : Engine) : (s.setEngine c d e).chan c = (s.chan c).setEngine d e := by cases c <;> rfl
@[simp] theorem State.setEngine_chan_other (s : State) (c : Chan) (d : Dir) (e : Engine) (c' : Chan) (h : c' ≠ c) : (s.setEngine c d e).chan c' = s.chan c' := by
  cases c <;> cases c' <;> first | rfl | exact absurd rfl h

/-! `flagSet`. -/

@[simp] theorem flagSet_fault (c : Chan) (d : Dir) (s : State) : (flagSet c d s).fault = s.fault := by cases c <;> rfl
@[simp] theorem flagSet_mem (c : Chan) (d : Dir) (s : State) : (flagSet c d s).mem = s.mem := by cases c <;> rfl
@[simp] theorem flagSet_tpc (c : Chan) (d : Dir) (s : State) : (flagSet c d s).tpc = s.tpc := by cases c <;> rfl
@[simp] theorem flagSet_r (c : Chan) (d : Dir) (s : State) : (flagSet c d s).r = s.r := by cases c <;> rfl
@[simp] theorem flagSet_hist (c : Chan) (d : Dir) (s : State) : (flagSet c d s).hist = s.hist := by cases c <;> rfl
@[simp] theorem flagSet_program (c : Chan) (d : Dir) (s : State) : (flagSet c d s).program = s.program := by cases c <;> rfl
@[simp] theorem flagSet_schedule (c : Chan) (d : Dir) (s : State) : (flagSet c d s).schedule = s.schedule := by cases c <;> rfl
@[simp] theorem flagSet_launch (c : Chan) (d : Dir) (s : State) : (flagSet c d s).launch = s.launch := by cases c <;> rfl
@[simp] theorem flagSet_draws (c : Chan) (d : Dir) (s : State) : (flagSet c d s).draws = s.draws := by cases c <;> rfl

@[simp] theorem flagSet_chan_same (c : Chan) (d : Dir) (s : State) : (flagSet c d s).chan c = (s.chan c).setBusy d true := by cases c <;> rfl
@[simp] theorem flagSet_chan_other (c : Chan) (d : Dir) (s : State) (c' : Chan) (h : c' ≠ c) : (flagSet c d s).chan c' = s.chan c' := by
  cases c <;> cases c' <;> first | rfl | exact absurd rfl h

/-! `flagClear`. -/

@[simp] theorem flagClear_fault (c : Chan) (d : Dir) (s : State) : (flagClear c d s).fault = s.fault := by cases c <;> rfl
@[simp] theorem flagClear_mem (c : Chan) (d : Dir) (s : State) : (flagClear c d s).mem = s.mem := by cases c <;> rfl
@[simp] theorem flagClear_tpc (c : Chan) (d : Dir) (s : State) : (flagClear c d s).tpc = s.tpc := by cases c <;> rfl
@[simp] theorem flagClear_r (c : Chan) (d : Dir) (s : State) : (flagClear c d s).r = s.r := by cases c <;> rfl
@[simp] theorem flagClear_hist (c : Chan) (d : Dir) (s : State) : (flagClear c d s).hist = s.hist := by cases c <;> rfl
@[simp] theorem flagClear_program (c : Chan) (d : Dir) (s : State) : (flagClear c d s).program = s.program := by cases c <;> rfl
@[simp] theorem flagClear_schedule (c : Chan) (d : Dir) (s : State) : (flagClear c d s).schedule = s.schedule := by cases c <;> rfl
@[simp] theorem flagClear_launch (c : Chan) (d : Dir) (s : State) : (flagClear c d s).launch = s.launch := by cases c <;> rfl
@[simp] theorem flagClear_draws (c : Chan) (d : Dir) (s : State) : (flagClear c d s).draws = s.draws := by cases c <;> rfl

@[simp] theorem flagClear_chan_same (c : Chan) (d : Dir) (s : State) : (flagClear c d s).chan c = (s.chan c).setBusy d false := by cases c <;> rfl
@[simp] theorem flagClear_chan_other (c : Chan) (d : Dir) (s : State) (c' : Chan) (h : c' ≠ c) : (flagClear c d s).chan c' = s.chan c' := by
  cases c <;> cases c' <;> first | rfl | exact absurd rfl h

/-! `flagClearFromISR`. -/

@[simp] theorem flagClearFromISR_fault (c : Chan) (d : Dir) (s : State) : (flagClearFromISR c d s).fault = s.fault := by cases c <;> rfl
@[simp] theorem flagClearFromISR_mem (c : Chan) (d : Dir) (s : State) : (flagClearFromISR c d s).mem = s.mem := by cases c <;> rfl
@[simp] theorem flagClearFromISR_tpc (c : Chan) (d : Dir) (s : State) : (flagClearFromISR c d s).tpc = s.tpc := by cases c <;> rfl
@[simp] theorem flagClearFromISR_r (c : Chan) (d : Dir) (s : State) : (flagClearFromISR c d s).r = s.r := by cases c <;> rfl
@[simp] theorem flagClearFromISR_hist (c : Chan) (d : Dir) (s : State) : (flagClearFromISR c d s).hist = s.hist := by cases c <;> rfl
@[simp] theorem flagClearFromISR_program (c : Chan) (d : Dir) (s : State) : (flagClearFromISR c d s).program = s.program := by cases c <;> rfl
@[simp] theorem flagClearFromISR_schedule (c : Chan) (d : Dir) (s : State) : (flagClearFromISR c d s).schedule = s.schedule := by cases c <;> rfl
@[simp] theorem flagClearFromISR_launch (c : Chan) (d : Dir) (s : State) : (flagClearFromISR c d s).launch = s.launch := by cases c <;> rfl
@[simp] theorem flagClearFromISR_draws (c : Chan) (d : Dir) (s : State) : (flagClearFromISR c d s).draws = s.draws := by cases c <;> rfl

@[simp] theorem flagClearFromISR_chan_same (c : Chan) (d : Dir) (s : State) : (flagClearFromISR c d s).chan c = (s.chan c).setBusy d false := by cases c <;> rfl
@[simp] theorem flagClearFromISR_chan_other (c : Chan) (d : Dir) (s : State) (c' : Chan) (h : c' ≠ c) : (flagClearFromISR c d s).chan c' = s.chan c' := by
  cases c <;> cases c' <;> first | rfl | exact absurd rfl h

/-! `disengage`. -/

@[simp] theorem disengage_fault (c : Chan) (d : Dir) (s : State) : (disengage c d s).fault = s.fault := by cases c <;> rfl
@[simp] theorem disengage_mem (c : Chan) (d : Dir) (s : State) : (disengage c d s).mem = s.mem := by cases c <;> rfl
@[simp] theorem disengage_tpc (c : Chan) (d : Dir) (s : State) : (disengage c d s).tpc = s.tpc := by cases c <;> rfl
@[simp] theorem disengage_r (c : Chan) (d : Dir) (s : State) : (disengage c d s).r = s.r := by cases c <;> rfl
@[simp] theorem disengage_hist (c : Chan) (d : Dir) (s : State) : (disengage c d s).hist = s.hist := by cases c <;> rfl
@[simp] theorem disengage_program (c : Chan) (d : Dir) (s : State) : (disengage c d s).program = s.program := by cases c <;> rfl
@[simp] theorem disengage_schedule (c : Chan) (d : Dir) (s : State) : (disengage c d s).schedule = s.schedule := by cases c <;> rfl
@[simp] theorem disengage_launch (c : Chan) (d : Dir) (s : State) : (disengage c d s).launch = s.launch := by cases c <;> rfl
@[simp] theorem disengage_draws (c : Chan) (d : Dir) (s : State) : (disengage c d s).draws = s.draws := by cases c <;> rfl

@[simp] theorem disengage_chan_same (c : Chan) (d : Dir) (s : State) : (disengage c d s).chan c = (s.chan c).setEngine d { (s.chan c).engine d with run := false } := by cases c <;> rfl
@[simp] theorem disengage_chan_other (c : Chan) (d : Dir) (s : State) (c' : Chan) (h : c' ≠ c) : (disengage c d s).chan c' = s.chan c' := by
  cases c <;> cases c' <;> first | rfl | exact absurd rfl h

/-! `clearTC`. -/

@[simp] theorem clearTC_fault (c : Chan) (s : State) : (clearTC c s).fault = s.fault := by cases c <;> rfl
@[simp] theorem clearTC_mem (c : Chan) (s : State) : (clearTC c s).mem = s.mem := by cases c <;> rfl
@[simp] theorem clearTC_tpc (c : Chan) (s : State) : (clearTC c s).tpc = s.tpc := by cases c <;> rfl
@[simp] theorem clearTC_r (c : Chan) (s : State) : (clearTC c s).r = s.r := by cases c <;> rfl
@[simp] theorem clearTC_hist (c : Chan) (s : State) : (clearTC c s).hist = s.hist := by cases c <;> rfl
@[simp] theorem clearTC_program (c : Chan) (s : State) : (clearTC c s).program = s.program := by cases c <;> rfl
@[simp] theorem clearTC_schedule (c : Chan) (s : State) : (clearTC c s).schedule = s.schedule := by cases c <;> rfl
@[simp] theorem clearTC_launch (c : Chan) (s : State) : (clearTC c s).launch = s.launch := by cases c <;> rfl
@[simp] theorem clearTC_draws (c : Chan) (s : State) : (clearTC c s).draws = s.draws := by cases c <;> rfl

@[simp] theorem clearTC_chan_same (c : Chan) (s : State) : (clearTC c s).chan c = { s.chan c with tc := false } := by cases c <;> rfl
@[simp] theorem clearTC_chan_other (c : Chan) (s : State) (c' : Chan) (h : c' ≠ c) : (clearTC c s).chan c' = s.chan c' := by
  cases c <;> cases c' <;> first | rfl | exact absurd rfl h

/-! `clearRXNE`. -/

@[simp] theorem clearRXNE_fault (c : Chan) (s : State) : (clearRXNE c s).fault = s.fault := by cases c <;> rfl
@[simp] theorem clearRXNE_mem (c : Chan) (s : State) : (clearRXNE c s).mem = s.mem := by cases c <;> rfl
@[simp] theorem clearRXNE_tpc (c : Chan) (s : State) : (clearRXNE c s).tpc = s.tpc := by cases c <;> rfl
@[simp] theorem clearRXNE_r (c : Chan) (s : State) : (clearRXNE c s).r = s.r := by cases c <;> rfl
@[simp] theorem clearRXNE_hist (c : Chan) (s : State) : (clearRXNE c s).hist = s.hist := by cases c <;> rfl
@[simp] theorem clearRXNE_program (c : Chan) (s : State) : (clearRXNE c s).program = s.program := by cases c <;> rfl
@[simp] theorem clearRXNE_schedule (c : Chan) (s : State) : (clearRXNE c s).schedule = s.schedule := by cases c <;> rfl
@[simp] theorem clearRXNE_launch (c : Chan) (s : State) : (clearRXNE c s).launch = s.launch := by cases c <;> rfl
@[simp] theorem clearRXNE_draws (c : Chan) (s : State) : (clearRXNE c s).draws = s.draws := by cases c <;> rfl

@[simp] theorem clearRXNE_chan_same (c : Chan) (s : State) : (clearRXNE c s).chan c = { s.chan c with rxne := false } := by cases c <;> rfl
@[simp] theorem clearRXNE_chan_other (c : Chan) (s : State) (c' : Chan) (h : c' ≠ c) : (clearRXNE c s).chan c' = s.chan c' := by
  cases c <;> cases c' <;> first | rfl | exact absurd rfl h

/-! `txCplt`. -/

@[simp] theorem txCplt_fault (c : Chan) (s : State) : (txCplt c s).fault = s.fault := by cases c <;> rfl
@[simp] theorem txCplt_mem (c : Chan) (s : State) : (txCplt c s).mem = s.mem := by cases c <;> rfl
@[simp] theorem txCplt_tpc (c : Chan) (s : State) : (txCplt c s).tpc = s.tpc := by cases c <;> rfl
@[simp] theorem txCplt_r (c : Chan) (s : State) : (txCplt c s).r = s.r := by cases c <;> rfl
@[simp] theorem txCplt_hist (c : Chan) (s : State) : (txCplt c s).hist = s.hist ++ [.cplt c .tx] := by cases c <;> rfl
@[simp] theorem txCplt_program (c : Chan) (s : State) : (txCplt c s).program = s.program := by cases c <;> rfl
@[simp] theorem txCplt_schedule (c : Chan) (s : State) : (txCplt c s).schedule = s.schedule := by cases c <;> rfl
@[simp] theorem txCplt_launch (c : Chan) (s : State) : (txCplt c s).launch = s.launch := by cases c <;> rfl
@[simp] theorem txCplt_draws (c : Chan) (s : State) : (txCplt c s).draws = s.draws := by cases c <;> rfl

@[simp] theorem txCplt_chan_same (c : Chan) (s : State) : (txCplt c s).chan c = (s.chan c).setBusy .tx false := by cases c <;> rfl
@[simp] theorem txCplt_chan_other (c : Chan) (s : State) (c' : Chan) (h : c' ≠ c) : (txCplt c s).chan c' = s.chan c' := by
  cases c <;> cases c' <;> first | rfl | exact absurd rfl h

/-! `rxCplt`. -/

@[simp] theorem rxCplt_fault (c : Chan) (s : State) : (rxCplt c s).fault = s.fault := by cases c <;> rfl
@[simp] theorem rxCplt_mem (c : Chan) (s : State) : (rxCplt c s).mem = s.mem := by cases c <;> rfl
@[simp] theorem rxCplt_tpc (c : Chan) (s : State) : (rxCplt c s).tpc = s.tpc := by cases c <;> rfl
@[simp] theorem rxCplt_r (c : Chan) (s : State) : (rxCplt c s).r = s.r := by cases c <;> rfl
@[simp] theorem rxCplt_hist (c : Chan) (s : State) : (rxCplt c s).hist = s.hist ++ [.cplt c .rx] := by cases c <;> rfl
@[simp] theorem rxCplt_program (c : Chan) (s : State) : (rxCplt c s).program = s.program := by cases c <;> rfl
@[simp] theorem rxCplt_schedule (c : Chan) (s : State) : (rxCplt c s).schedule = s.schedule := by cases c <;> rfl
@[simp] theorem rxCplt_launch (c : Chan) (s : State) : (rxCplt c s).launch = s.launch := by cases c <;> rfl
@[simp] theorem rxCplt_draws (c : Chan) (s : State) : (rxCplt c s).draws = s.draws := by cases c <;> rfl

@[simp] theorem rxCplt_chan_same (c : Chan) (s : State) : (rxCplt c s).chan c = (s.chan c).setBusy .rx false := by cases c <;> rfl
@[simp] theorem rxCplt_chan_other (c : Chan) (s : State) (c' : Chan) (h : c' ≠ c) : (rxCplt c s).chan c' = s.chan c' := by
  cases c <;> cases c' <;> first | rfl | exact absurd rfl h

/-! A channel's slot: `setBusy`, `setEngine`. -/

@[simp] theorem ChanState.setBusy_inited (x : ChanState) (d : Dir) (b : Bool) : (x.setBusy d b).inited = x.inited := by cases d <;> rfl
@[simp] theorem ChanState.setBusy_ieRxne (x : ChanState) (d : Dir) (b : Bool) : (x.setBusy d b).ieRxne = x.ieRxne := by cases d <;> rfl
@[simp] theorem ChanState.setBusy_ieTc (x : ChanState) (d : Dir) (b : Bool) : (x.setBusy d b).ieTc = x.ieTc := by cases d <;> rfl
@[simp] theorem ChanState.setBusy_ven (x : ChanState) (d : Dir) (b : Bool) : (x.setBusy d b).ven = x.ven := by cases d <;> rfl
@[simp] theorem ChanState.setBusy_prio (x : ChanState) (d : Dir) (b : Bool) : (x.setBusy d b).prio = x.prio := by cases d <;> rfl
@[simp] theorem ChanState.setBusy_baud (x : ChanState) (d : Dir) (b : Bool) : (x.setBusy d b).baud = x.baud := by cases d <;> rfl
@[simp] theorem ChanState.setBusy_tc (x : ChanState) (d : Dir) (b : Bool) : (x.setBusy d b).tc = x.tc := by cases d <;> rfl
@[simp] theorem ChanState.setBusy_rxne (x : ChanState) (d : Dir) (b : Bool) : (x.setBusy d b).rxne = x.rxne := by cases d <;> rfl
@[simp] theorem ChanState.setBusy_rdr (x : ChanState) (d : Dir) (b : Bool) : (x.setBusy d b).rdr = x.rdr := by cases d <;> rfl
@[simp] theorem ChanState.setBusy_txLine (x : ChanState) (d : Dir) (b : Bool) : (x.setBusy d b).txLine = x.txLine := by cases d <;> rfl
@[simp] theorem ChanState.setBusy_ovr (x : ChanState) (d : Dir) (b : Bool) : (x.setBusy d b).ovr = x.ovr := by cases d <;> rfl
@[simp] theorem ChanState.setBusy_tx (x : ChanState) (d : Dir) (b : Bool) : (x.setBusy d b).tx = x.tx := by cases d <;> rfl
@[simp] theorem ChanState.setBusy_rx (x : ChanState) (d : Dir) (b : Bool) : (x.setBusy d b).rx = x.rx := by cases d <;> rfl
@[simp] theorem ChanState.setBusy_tx_rxBusy (x : ChanState) (b : Bool) : (x.setBusy .tx b).rxBusy = x.rxBusy := rfl
@[simp] theorem ChanState.setBusy_rx_txBusy (x : ChanState) (b : Bool) : (x.setBusy .rx b).txBusy = x.txBusy := rfl
@[simp] theorem ChanState.setBusy_tx_txBusy (x : ChanState) (b : Bool) : (x.setBusy .tx b).txBusy = b := rfl
@[simp] theorem ChanState.setBusy_rx_rxBusy (x : ChanState) (b : Bool) : (x.setBusy .rx b).rxBusy = b := rfl
@[simp] theorem ChanState.busy_setBusy (x : ChanState) (d : Dir) (b : Bool) : (x.setBusy d b).busy d = b := by cases d <;> rfl
@[simp] theorem ChanState.engine_setBusy (x : ChanState) (d d' : Dir) (b : Bool) : (x.setBusy d b).engine d' = x.engine d' := by
  cases d <;> cases d' <;> rfl

@[simp] theorem ChanState.setEngine_inited (x : ChanState) (d : Dir) (e : Engine) : (x.setEngine d e).inited = x.inited := by cases d <;> rfl
@[simp] theorem ChanState.setEngine_ieRxne (x : ChanState) (d : Dir) (e : Engine) : (x.setEngine d e).ieRxne = x.ieRxne := by cases d <;> rfl
@[simp] theorem ChanState.setEngine_ieTc (x : ChanState) (d : Dir) (e : Engine) : (x.setEngine d e).ieTc = x.ieTc := by cases d <;> rfl
@[simp] theorem ChanState.setEngine_ven (x : ChanState) (d : Dir) (e : Engine) : (x.setEngine d e).ven = x.ven := by cases d <;> rfl
@[simp] theorem ChanState.setEngine_prio (x : ChanState) (d : Dir) (e : Engine) : (x.setEngine d e).prio = x.prio := by cases d <;> rfl
@[simp] theorem ChanState.setEngine_baud (x : ChanState) (d : Dir) (e : Engine) : (x.setEngine d e).baud = x.baud := by cases d <;> rfl
@[simp] theorem ChanState.setEngine_tc (x : ChanState) (d : Dir) (e : Engine) : (x.setEngine d e).tc = x.tc := by cases d <;> rfl
@[simp] theorem ChanState.setEngine_rxne (x : ChanState) (d : Dir) (e : Engine) : (x.setEngine d e).rxne = x.rxne := by cases d <;> rfl
@[simp] theorem ChanState.setEngine_rdr (x : ChanState) (d : Dir) (e : Engine) : (x.setEngine d e).rdr = x.rdr := by cases d <;> rfl
@[simp] theorem ChanState.setEngine_txLine (x : ChanState) (d : Dir) (e : Engine) : (x.setEngine d e).txLine = x.txLine := by cases d <;> rfl
@[simp] theorem ChanState.setEngine_ovr (x : ChanState) (d : Dir) (e : Engine) : (x.setEngine d e).ovr = x.ovr := by cases d <;> rfl
@[simp] theorem ChanState.setEngine_txBusy (x : ChanState) (d : Dir) (e : Engine) : (x.setEngine d e).txBusy = x.txBusy := by cases d <;> rfl
@[simp] theorem ChanState.setEngine_rxBusy (x : ChanState) (d : Dir) (e : Engine) : (x.setEngine d e).rxBusy = x.rxBusy := by cases d <;> rfl
@[simp] theorem ChanState.setEngine_tx_tx (x : ChanState) (e : Engine) : (x.setEngine .tx e).tx = e := rfl
@[simp] theorem ChanState.setEngine_tx_rx (x : ChanState) (e : Engine) : (x.setEngine .tx e).rx = x.rx := rfl
@[simp] theorem ChanState.setEngine_rx_tx (x : ChanState) (e : Engine) : (x.setEngine .rx e).tx = x.tx := rfl
@[simp] theorem ChanState.setEngine_rx_rx (x : ChanState) (e : Engine) : (x.setEngine .rx e).rx = e := rfl
@[simp] theorem ChanState.engine_setEngine (x : ChanState) (d : Dir) (e : Engine) : (x.setEngine d e).engine d = e := by cases d <;> rfl
@[simp] theorem ChanState.busy_setEngine (x : ChanState) (d d' : Dir) (e : Engine) : (x.setEngine d e).busy d' = x.busy d' := by
  cases d <;> cases d' <;> rfl
@[simp] theorem ChanState.busy_tx (x : ChanState) : x.busy .tx = x.txBusy := rfl
@[simp] theorem ChanState.engine_tx (x : ChanState) : x.engine .tx = x.tx := rfl
@[simp] theorem ChanState.busy_rx (x : ChanState) : x.busy .rx = x.rxBusy := rfl
@[simp] theorem ChanState.engine_rx (x : ChanState) : x.engine .rx = x.rx := rfl

end Sys2Proof.Machine
end

