-- ==== Sys2Proof/Laws/Ops.lean ====
section
/-! SUPPORT. What each shared operation can do, once, and what each instruction does when it answers a next state; later
proofs cite these instead of unfolding. -/

namespace Sys2Proof.Machine

open Sys2Proof.Safety

/-! Channels. -/

theorem chanOfId_none_iff (ch : ChanId) : chanOfId ch = none ↔ 2 ≤ ch.toNat := by
  unfold chanOfId
  split
  · next h => subst h; decide
  · next h0 =>
    split
    · next h => subst h; decide
    · next h1 =>
      have n0 : ch.toNat ≠ 0 := fun h => h0 (BitVec.eq_of_toNat_eq h)
      have n1 : ch.toNat ≠ 1 := fun h => h1 (BitVec.eq_of_toNat_eq h)
      simp; omega

@[simp] theorem chanOfId_idOfChan (c : Chan) : chanOfId (idOfChan c) = some c := by cases c <;> rfl

/-- No two identifiers name one channel. -/
theorem chanOfId_some {ch : ChanId} {c : Chan} (h : chanOfId ch = some c) : ch = idOfChan c := by
  unfold chanOfId at h
  split at h
  · next h0 => cases h; exact h0
  · split at h
    · next h1 => cases h; exact h1
    · cases h

/-- The vector numbers of the two channels are distinct (R171). -/
theorem Config.vec_ne : Config.vec .ch1 ≠ Config.vec .ch2 := by
  unfold Config.vec
  cases Config.vectorSwap <;> simp [Nat.add_assoc]

/-! Raising a fault. -/

theorem raise_of_none {s : State} (h : s.fault = none) (f : FaultInfo) : raise f s = Faulted f s := by
  unfold raise
  rw [h]
  rfl

theorem raise_of_some {s : State} {g : FaultInfo} (h : s.fault = some g) (f : FaultInfo) : raise f s = s := by
  unfold raise
  rw [h]

/-- A fault writes no element of a channel. -/
@[simp] theorem Faulted_chan (f : FaultInfo) (s : State) (c : Chan) : (Faulted f s).chan c = s.chan c := by
  cases c <;> rfl

/-! The task agent's frame. -/

theorem taskStep_of_none {s : State} (h : s.fault = none) (body : State → State) : taskStep body s = .next (body s) := by
  unfold taskStep
  rw [h]

theorem taskStep_of_some {s : State} {f : FaultInfo} (h : s.fault = some f) (body : State → State) :
    taskStep body s = .fault .taskHalted := by
  unfold taskStep
  rw [h]

theorem taskStep_next {s t : State} {body : State → State} (h : taskStep body s = .next t) :
    s.fault = none ∧ t = body s := by
  cases hf : s.fault with
  | none => rw [taskStep_of_none hf] at h; cases h; exact ⟨rfl, rfl⟩
  | some f => rw [taskStep_of_some hf] at h; cases h

theorem withChan_of_some {ch : ChanId} {c : Chan} (h : chanOfId ch = some c) (body : Chan → State → State) (s : State) :
    withChan ch body s = body c s := by
  unfold withChan
  rw [h]

theorem withChan_of_none {ch : ChanId} (h : chanOfId ch = none) (body : Chan → State → State) (s : State) :
    withChan ch body s = raise (.config ch) s := by
  unfold withChan
  rw [h]

theorem withReadyChan_of_ready {ch : ChanId} {c : Chan} {s : State} (h : chanOfId ch = some c)
    (hi : (s.chan c).inited = true) (body : Chan → State → State) : withReadyChan ch body s = body c s := by
  unfold withReadyChan
  rw [withChan_of_some h]
  simp [hi]

theorem withReadyChan_of_uninit {ch : ChanId} {c : Chan} {s : State} (h : chanOfId ch = some c)
    (hi : (s.chan c).inited = false) (body : Chan → State → State) :
    withReadyChan ch body s = raise (.uninit c) s := by
  unfold withReadyChan
  rw [withChan_of_some h]
  simp [hi]

theorem withReadyChan_of_none {ch : ChanId} (h : chanOfId ch = none) (body : Chan → State → State) (s : State) :
    withReadyChan ch body s = raise (.config ch) s := by
  unfold withReadyChan
  rw [withChan_of_none h]

/-- A command on a channel either raises one of the two channel faults or runs its body on an initialized channel. -/
theorem withReadyChan_cases (ch : ChanId) (body : Chan → State → State) (s : State) :
    (∃ f, withReadyChan ch body s = raise f s) ∨
      ∃ c, chanOfId ch = some c ∧ (s.chan c).inited = true ∧ withReadyChan ch body s = body c s := by
  cases h : chanOfId ch with
  | none => exact .inl ⟨_, withReadyChan_of_none h body s⟩
  | some c =>
    cases hi : (s.chan c).inited with
    | false => exact .inl ⟨_, withReadyChan_of_uninit h hi body⟩
    | true => exact .inr ⟨c, rfl, hi, withReadyChan_of_ready h hi body⟩

/-! Arming. -/

theorem bufferFits_iff (ptr len : Word) : bufferFits ptr len = true ↔ ptr.toNat + len.toNat ≤ 2 ^ 32 := by
  unfold bufferFits
  exact decide_eq_true_iff

theorem transferFault_eq_none_iff (c : Chan) (d : Dir) (ptr len : Word) :
    transferFault c d ptr len = none ↔ len ≠ 0 ∧ ptr.toNat + len.toNat ≤ 2 ^ 32 := by
  unfold transferFault
  rw [← bufferFits_iff]
  by_cases h0 : len = 0
  · simp [h0]
  · rw [if_neg h0]
    cases bufferFits ptr len with
    | true => exact ⟨fun _ => ⟨h0, rfl⟩, fun _ => rfl⟩
    | false => exact ⟨fun h => (nomatch h), fun h => (nomatch h.2)⟩

/-- `send` / `receive` on an initialized channel raise an operand fault, drop the request, or arm the engine. -/
theorem startTransfer_cases (d : Dir) (ptr len : Word) (c : Chan) (s : State) :
    (∃ f, startTransfer d ptr len c s = raise f s) ∨
    (len ≠ 0 ∧ ptr.toNat + len.toNat ≤ 2 ^ 32 ∧ (s.chan c).busy d = true ∧
      startTransfer d ptr len c s = (s.log [.drop c d]).advance) ∨
    (len ≠ 0 ∧ ptr.toNat + len.toNat ≤ 2 ^ 32 ∧ (s.chan c).busy d = false ∧
      startTransfer d ptr len c s =
        ((flagSet c d (s.setEngine c d (Engine.armed ptr len))).log [.arm c d ptr len]).advance) := by
  unfold startTransfer
  cases h : transferFault c d ptr len with
  | some f => exact .inl ⟨f, rfl⟩
  | none =>
    obtain ⟨h0, hl⟩ := (transferFault_eq_none_iff c d ptr len).1 h
    cases hb : (s.chan c).busy d with
    | true => exact .inr (.inl ⟨h0, hl, rfl, by simp⟩)
    | false => exact .inr (.inr ⟨h0, hl, rfl, by simp⟩)

@[simp] theorem responseBit_response (b : Bool) : responseBit (response b) = !b := by cases b <;> rfl

/-! Admission. -/

theorem admitted_lt {s : State} {a : Nat} (h : s.admitted a = true) : a < 2 ^ 32 := by
  unfold State.admitted at h
  exact of_decide_eq_true (Bool.and_eq_true_iff.1 h).1

/-- Admission depends on the launch parameters only. -/
theorem admitted_congr {s t : State} (h : t.launch = s.launch) (a : Nat) : t.admitted a = s.admitted a := by
  unfold State.admitted
  rw [h]

theorem baudOK_zero (s : State) : s.baudOK 0 = false := by simp [State.baudOK]

/-! Events. -/

theorem eventStep_of_enabled {ch : ChanId} {c : Chan} {s : State} (h : chanOfId ch = some c)
    {enabled : Chan → State → Bool} (he : enabled c s = true) (body : Chan → State → State) :
    eventStep ch enabled body s = .next (body c s) := by
  unfold eventStep
  rw [h]
  simp [he]

theorem eventStep_of_disabled {ch : ChanId} {c : Chan} {s : State} (h : chanOfId ch = some c)
    {enabled : Chan → State → Bool} (he : enabled c s = false) (body : Chan → State → State) :
    eventStep ch enabled body s = .refused .eventNotEnabled := by
  unfold eventStep
  rw [h]
  simp [he]

theorem eventStep_of_none {ch : ChanId} (h : chanOfId ch = none) (enabled : Chan → State → Bool)
    (body : Chan → State → State) (s : State) : eventStep ch enabled body s = .refused .eventUnknownChannel := by
  unfold eventStep
  rw [h]

theorem eventStep_next {ch : ChanId} {enabled : Chan → State → Bool} {body : Chan → State → State} {s t : State}
    (h : eventStep ch enabled body s = .next t) :
    ∃ c, chanOfId ch = some c ∧ enabled c s = true ∧ t = body c s := by
  cases hc : chanOfId ch with
  | none => rw [eventStep_of_none hc] at h; cases h
  | some c =>
    cases he : enabled c s with
    | false => rw [eventStep_of_disabled hc he] at h; cases h
    | true => rw [eventStep_of_enabled hc he] at h; cases h; exact ⟨c, rfl, he, rfl⟩

/-! The cursor. -/

theorem advanceCursor_last {c : Chan} {d : Dir} {s : State}
    (h : ((s.chan c).engine d).cur + 1 = ((s.chan c).engine d).len) :
    advanceCursor c d s =
      completion c d (s.setEngine c d
        { (s.chan c).engine d with cur := ((s.chan c).engine d).cur + 1, run := false }) := by
  unfold advanceCursor
  exact if_pos h

theorem advanceCursor_short {c : Chan} {d : Dir} {s : State}
    (h : ((s.chan c).engine d).cur + 1 ≠ ((s.chan c).engine d).len) :
    advanceCursor c d s =
      s.setEngine c d { (s.chan c).engine d with cur := ((s.chan c).engine d).cur + 1 } := by
  unfold advanceCursor
  exact if_neg h

/-- Advancing an engaged engine short of its last byte keeps it well formed, and the cursor does not wrap. -/
theorem engineOk_advance {e : Engine} (h : EngineOk e) (hr : e.run = true) (hl : e.cur + 1 ≠ e.len) :
    EngineOk { e with cur := e.cur + 1 } ∧ (e.cur + 1).toNat = e.cur.toNat + 1 := by
  obtain ⟨h1, h2, h3⟩ := h hr
  have hn : (e.cur + 1).toNat = e.cur.toNat + 1 := by
    have := e.len.isLt
    rw [BitVec.toNat_add]
    simp
    omega
  have hne : e.cur.toNat + 1 ≠ e.len.toNat := fun h => hl (BitVec.eq_of_toNat_eq (by omega))
  exact ⟨fun _ => ⟨h1, by show (e.cur + 1).toNat < e.len.toNat; omega, h3⟩, hn⟩

end Sys2Proof.Machine
end

