-- ==== Sys2Proof/Laws/Exec.lean ====
section
/-! SUPPORT. What an instruction does when it answers a next state, said once: an inversion lemma over all fourteen rows,
with every state after in one form. Later proofs take it apart by cases and unfold no meaning. -/

namespace Sys2Proof.Machine

open Sys2Proof.Safety

/-- The one form of a state after: slot `x` for channel `c`, memory, `tpc`, `R`, the events logged, the draws used. -/
def State.put (s : State) (c : Chan) (x : ChanState) (m : Memory) (tpc : Nat) (r : Option Bool) (es : List Event)
    (n : Nat) : State :=
  { s.setChan c x with mem := m, tpc := tpc, r := r, hist := s.hist ++ es, draws := n }

section
variable (s : State) (c c' : Chan) (x : ChanState) (m : Memory) (tpc : Nat) (r : Option Bool) (es : List Event) (n : Nat)

theorem State.put_chan : (s.put c x m tpc r es n).chan c' = if c' = c then x else s.chan c' := by
  cases c <;> cases c' <;> rfl

@[simp] theorem State.put_chan_same : (s.put c x m tpc r es n).chan c = x := by cases c <;> rfl
@[simp] theorem State.put_chan_other (h : c' ≠ c) : (s.put c x m tpc r es n).chan c' = s.chan c' := by
  rw [State.put_chan, if_neg h]
@[simp] theorem State.put_fault : (s.put c x m tpc r es n).fault = s.fault := by cases c <;> rfl
@[simp] theorem State.put_mem : (s.put c x m tpc r es n).mem = m := by cases c <;> rfl
@[simp] theorem State.put_tpc : (s.put c x m tpc r es n).tpc = tpc := by cases c <;> rfl
@[simp] theorem State.put_r : (s.put c x m tpc r es n).r = r := by cases c <;> rfl
@[simp] theorem State.put_hist : (s.put c x m tpc r es n).hist = s.hist ++ es := by cases c <;> rfl
@[simp] theorem State.put_program : (s.put c x m tpc r es n).program = s.program := by cases c <;> rfl
@[simp] theorem State.put_schedule : (s.put c x m tpc r es n).schedule = s.schedule := by cases c <;> rfl
@[simp] theorem State.put_launch : (s.put c x m tpc r es n).launch = s.launch := by cases c <;> rfl
@[simp] theorem State.put_draws : (s.put c x m tpc r es n).draws = n := by cases c <;> rfl

end

/-- `Effect s i t`: instruction `i` at `s` can answer `t`, and why. -/
inductive Effect (s : State) : Instr → State → Prop where
  | faulted (i : Instr) (f : FaultInfo) (hf : s.fault = none) (hi : i.context = .task) : Effect s i (Faulted f s)
  | branched (target : Word) (bit : Bool) (hf : s.fault = none) (hr : s.r = some bit)
      (ht : target.toNat ≤ s.program.length) :
      Effect s (.brz target) { s with tpc := if bit then s.tpc + 1 else target.toNat }
  | initialised (ch : ChanId) (c : Chan) (baud : Word) (hc : chanOfId ch = some c) (hf : s.fault = none)
      (hi : (s.chan c).inited = false) (hb : s.baudOK baud = true) :
      Effect s (.initialise ch baud)
        (s.put c ((s.chan c).initialised baud) s.mem (s.tpc + 1) s.r [.init c baud] s.draws)
  | sendDropped (ch : ChanId) (c : Chan) (ptr len : Word) (hc : chanOfId ch = some c) (hf : s.fault = none)
      (hi : (s.chan c).inited = true) (hb : (s.chan c).txBusy = true) :
      Effect s (.send ch ptr len) (s.put c (s.chan c) s.mem (s.tpc + 1) s.r [.drop c .tx] s.draws)
  | sendArmed (ch : ChanId) (c : Chan) (ptr len : Word) (hc : chanOfId ch = some c) (hf : s.fault = none)
      (hi : (s.chan c).inited = true) (h0 : len ≠ 0) (hl : ptr.toNat + len.toNat ≤ 2 ^ 32)
      (hb : (s.chan c).txBusy = false) :
      Effect s (.send ch ptr len)
        (s.put c { s.chan c with tx := Engine.armed ptr len, txBusy := true } s.mem (s.tpc + 1) s.r
          [.arm c .tx ptr len] s.draws)
  | receiveDropped (ch : ChanId) (c : Chan) (ptr len : Word) (hc : chanOfId ch = some c) (hf : s.fault = none)
      (hi : (s.chan c).inited = true) (hb : (s.chan c).rxBusy = true) :
      Effect s (.receive ch ptr len) (s.put c (s.chan c) s.mem (s.tpc + 1) s.r [.drop c .rx] s.draws)
  | receiveArmed (ch : ChanId) (c : Chan) (ptr len : Word) (hc : chanOfId ch = some c) (hf : s.fault = none)
      (hi : (s.chan c).inited = true) (h0 : len ≠ 0) (hl : ptr.toNat + len.toNat ≤ 2 ^ 32)
      (hb : (s.chan c).rxBusy = false) :
      Effect s (.receive ch ptr len)
        (s.put c { s.chan c with rx := Engine.armed ptr len, rxBusy := true } s.mem (s.tpc + 1) s.r
          [.arm c .rx ptr len] s.draws)
  | sendAnswered (ch : ChanId) (c : Chan) (hc : chanOfId ch = some c) (hf : s.fault = none)
      (hi : (s.chan c).inited = true) :
      Effect s (.isSendComplete ch)
        (s.put c (s.chan c) s.mem (s.tpc + 1) (some !(s.chan c).txBusy) [.query c .tx !(s.chan c).txBusy] s.draws)
  | receiveAnswered (ch : ChanId) (c : Chan) (hc : chanOfId ch = some c) (hf : s.fault = none)
      (hi : (s.chan c).inited = true) :
      Effect s (.isReceiveComplete ch)
        (s.put c (s.chan c) s.mem (s.tpc + 1) (some !(s.chan c).rxBusy) [.query c .rx !(s.chan c).rxBusy] s.draws)
  | sendAborted (ch : ChanId) (c : Chan) (hc : chanOfId ch = some c) (hf : s.fault = none)
      (hi : (s.chan c).inited = true) :
      Effect s (.abortSend ch)
        (s.put c { s.chan c with tx := { (s.chan c).tx with run := false }, tc := false, txBusy := false } s.mem
          (s.tpc + 1) s.r [.cancel c .tx] s.draws)
  | receiveAborted (ch : ChanId) (c : Chan) (hc : chanOfId ch = some c) (hf : s.fault = none)
      (hi : (s.chan c).inited = true) :
      Effect s (.abortReceive ch)
        (s.put c { s.chan c with rx := { (s.chan c).rx with run := false }, rxBusy := false } s.mem
          (s.tpc + 1) s.r [.cancel c .rx] s.draws)
  | emitted (ch : ChanId) (c : Chan) (hc : chanOfId ch = some c) (hi : (s.chan c).inited = true)
      (hr : (s.chan c).tx.run = true) (ht : (s.chan c).tc = false) (ha : s.admitted (s.chan c).tx.address = true) :
      Effect s (.txEmit ch)
        (s.put c
          { s.chan c with txLine := (s.chan c).txLine ++ [s.mem.read (s.chan c).tx.address], tc := true } s.mem s.tpc s.r
          [.txByte c (s.mem.read (s.chan c).tx.address)] s.draws)
  | arrived (ch : ChanId) (c : Chan) (b : Byte) (hc : chanOfId ch = some c) (hi : (s.chan c).inited = true)
      (hn : (s.chan c).rxne = false) :
      Effect s (.rxArrive ch b)
        (s.put c { s.chan c with rdr := b, rxne := true } s.mem s.tpc s.r [.rxArrive c b] s.draws)
  | overran (ch : ChanId) (c : Chan) (b : Byte) (hc : chanOfId ch = some c) (hi : (s.chan c).inited = true)
      (hn : (s.chan c).rxne = true) :
      Effect s (.rxArrive ch b)
        (s.put c { s.chan c with ovr := true, rdr := overrunDraw (s.chan c).rdr b s.draws } s.mem s.tpc s.r
          [.rxArrive c b, .overrun c] (s.draws + 1))
  | txForced (ch : ChanId) (c : Chan) (hc : chanOfId ch = some c) (hi : (s.chan c).inited = true) :
      Effect s (.forceTxCplt ch)
        (s.put c { s.chan c with tx := { (s.chan c).tx with run := false }, tc := false, txBusy := false } s.mem
          s.tpc s.r [.cplt c .tx] s.draws)
  | rxForced (ch : ChanId) (c : Chan) (hc : chanOfId ch = some c) (hi : (s.chan c).inited = true) :
      Effect s (.forceRxCplt ch)
        (s.put c { s.chan c with rx := { (s.chan c).rx with run := false }, rxBusy := false } s.mem
          s.tpc s.r [.cplt c .rx] s.draws)
  | txAdvanced (ch : ChanId) (c : Chan) (hc : chanOfId ch = some c) (hv : (s.chan c).ven = true)
      (he : (s.chan c).ieTc = true) (ht : (s.chan c).tc = true) (hr : (s.chan c).tx.run = true)
      (hl : (s.chan c).tx.cur + 1 ≠ (s.chan c).tx.len) :
      Effect s (.irqTC ch)
        (s.put c { s.chan c with tc := false, tx := { (s.chan c).tx with cur := (s.chan c).tx.cur + 1 } } s.mem
          s.tpc s.r [.irq c .tc] s.draws)
  | txCompleted (ch : ChanId) (c : Chan) (hc : chanOfId ch = some c) (hv : (s.chan c).ven = true)
      (he : (s.chan c).ieTc = true) (ht : (s.chan c).tc = true) (hr : (s.chan c).tx.run = true)
      (hl : (s.chan c).tx.cur + 1 = (s.chan c).tx.len) :
      Effect s (.irqTC ch)
        (s.put c
          { s.chan c with
            tc := false, tx := { (s.chan c).tx with cur := (s.chan c).tx.cur + 1, run := false }, txBusy := false }
          s.mem s.tpc s.r [.irq c .tc, .cplt c .tx] s.draws)
  | txSpurious (ch : ChanId) (c : Chan) (hc : chanOfId ch = some c) (hv : (s.chan c).ven = true)
      (he : (s.chan c).ieTc = true) (ht : (s.chan c).tc = true) (hr : (s.chan c).tx.run = false) :
      Effect s (.irqTC ch) (s.put c { s.chan c with tc := false } s.mem s.tpc s.r [.irq c .tc] s.draws)
  | rxStored (ch : ChanId) (c : Chan) (hc : chanOfId ch = some c) (hv : (s.chan c).ven = true)
      (he : (s.chan c).ieRxne = true) (hn : (s.chan c).rxne = true) (hr : (s.chan c).rx.run = true)
      (ha : s.admitted (s.chan c).rx.address = true) (hl : (s.chan c).rx.cur + 1 ≠ (s.chan c).rx.len) :
      Effect s (.irqRXNE ch)
        (s.put c { s.chan c with rxne := false, rx := { (s.chan c).rx with cur := (s.chan c).rx.cur + 1 } }
          (s.mem.write (s.chan c).rx.address (s.chan c).rdr) s.tpc s.r
          [.irq c .rxne, .rxStore c (s.chan c).rx.address (s.chan c).rdr] s.draws)
  | rxCompleted (ch : ChanId) (c : Chan) (hc : chanOfId ch = some c) (hv : (s.chan c).ven = true)
      (he : (s.chan c).ieRxne = true) (hn : (s.chan c).rxne = true) (hr : (s.chan c).rx.run = true)
      (ha : s.admitted (s.chan c).rx.address = true) (hl : (s.chan c).rx.cur + 1 = (s.chan c).rx.len) :
      Effect s (.irqRXNE ch)
        (s.put c
          { s.chan c with
            rxne := false, rx := { (s.chan c).rx with cur := (s.chan c).rx.cur + 1, run := false }, rxBusy := false }
          (s.mem.write (s.chan c).rx.address (s.chan c).rdr) s.tpc s.r
          [.irq c .rxne, .rxStore c (s.chan c).rx.address (s.chan c).rdr, .cplt c .rx] s.draws)
  | rxDiscarded (ch : ChanId) (c : Chan) (hc : chanOfId ch = some c) (hv : (s.chan c).ven = true)
      (he : (s.chan c).ieRxne = true) (hn : (s.chan c).rxne = true) (hr : (s.chan c).rx.run = false) :
      Effect s (.irqRXNE ch)
        (s.put c { s.chan c with rxne := false } s.mem s.tpc s.r [.irq c .rxne, .rxDiscard c (s.chan c).rdr] s.draws)

/-- A command's frame, inverted: a fault, or the body on an initialized channel. -/
theorem readyStep_next {ch : ChanId} {body : Chan → State → State} {s t : State}
    (h : taskStep (withReadyChan ch body) s = .next t) :
    s.fault = none ∧ ((∃ f, t = Faulted f s) ∨
      ∃ c, chanOfId ch = some c ∧ (s.chan c).inited = true ∧ t = body c s) := by
  obtain ⟨hf, rfl⟩ := taskStep_next h
  refine ⟨hf, ?_⟩
  rcases withReadyChan_cases ch body s with ⟨f, hw⟩ | ⟨c, hc, hi, hw⟩
  · exact .inl ⟨f, by rw [hw, raise_of_none hf]⟩
  · exact .inr ⟨c, hc, hi, hw⟩

theorem effect_initialise {ch : ChanId} {baud : Word} {s t : State} (h : execInitialise ch baud s = .next t) :
    Effect s (.initialise ch baud) t := by
  obtain ⟨hf, rfl⟩ := taskStep_next h
  cases hc : chanOfId ch with
  | none => rw [withChan_of_none hc, raise_of_none hf]; exact .faulted _ _ hf rfl
  | some c =>
    rw [withChan_of_some hc]
    cases hi : (s.chan c).inited with
    | true => rw [if_pos rfl, raise_of_none hf]; exact .faulted _ _ hf rfl
    | false =>
      rw [if_neg Bool.false_ne_true]
      cases hb : s.baudOK baud with
      | true =>
        rw [if_pos rfl]
        have e := Effect.initialised (s := s) ch c baud hc hf hi hb
        cases c <;> exact e
      | false => rw [if_neg Bool.false_ne_true, raise_of_none hf]; exact .faulted _ _ hf rfl

theorem effect_send {ch : ChanId} {ptr len : Word} {s t : State} (h : execSend ch ptr len s = .next t) :
    Effect s (.send ch ptr len) t := by
  obtain ⟨hf, ⟨f, rfl⟩ | ⟨c, hc, hi, rfl⟩⟩ := readyStep_next h
  · exact .faulted _ _ hf rfl
  · rcases startTransfer_cases .tx ptr len c s with ⟨f, hw⟩ | ⟨-, -, hb, hw⟩ | ⟨h0, hl, hb, hw⟩ <;> rw [hw]
    · rw [raise_of_none hf]; exact .faulted _ _ hf rfl
    · have e := Effect.sendDropped ch c ptr len hc hf hi hb
      cases c <;> exact e
    · have e := Effect.sendArmed ch c ptr len hc hf hi h0 hl hb
      cases c <;> exact e

theorem effect_receive {ch : ChanId} {ptr len : Word} {s t : State} (h : execReceive ch ptr len s = .next t) :
    Effect s (.receive ch ptr len) t := by
  obtain ⟨hf, ⟨f, rfl⟩ | ⟨c, hc, hi, rfl⟩⟩ := readyStep_next h
  · exact .faulted _ _ hf rfl
  · rcases startTransfer_cases .rx ptr len c s with ⟨f, hw⟩ | ⟨-, -, hb, hw⟩ | ⟨h0, hl, hb, hw⟩ <;> rw [hw]
    · rw [raise_of_none hf]; exact .faulted _ _ hf rfl
    · have e := Effect.receiveDropped ch c ptr len hc hf hi hb
      cases c <;> exact e
    · have e := Effect.receiveArmed ch c ptr len hc hf hi h0 hl hb
      cases c <;> exact e

theorem effect_isSendComplete {ch : ChanId} {s t : State} (h : execIsSendComplete ch s = .next t) :
    Effect s (.isSendComplete ch) t := by
  obtain ⟨hf, ⟨f, rfl⟩ | ⟨c, hc, hi, rfl⟩⟩ := readyStep_next h
  · exact .faulted _ _ hf rfl
  · have e := Effect.sendAnswered (s := s) ch c hc hf hi
    simp only [answerQuery, responseBit_response]
    cases c <;> exact e

theorem effect_isReceiveComplete {ch : ChanId} {s t : State} (h : execIsReceiveComplete ch s = .next t) :
    Effect s (.isReceiveComplete ch) t := by
  obtain ⟨hf, ⟨f, rfl⟩ | ⟨c, hc, hi, rfl⟩⟩ := readyStep_next h
  · exact .faulted _ _ hf rfl
  · have e := Effect.receiveAnswered (s := s) ch c hc hf hi
    simp only [answerQuery, responseBit_response]
    cases c <;> exact e

theorem effect_abortSend {ch : ChanId} {s t : State} (h : execAbortSend ch s = .next t) : Effect s (.abortSend ch) t := by
  obtain ⟨hf, ⟨f, rfl⟩ | ⟨c, hc, hi, rfl⟩⟩ := readyStep_next h
  · exact .faulted _ _ hf rfl
  · have e := Effect.sendAborted (s := s) ch c hc hf hi
    cases c <;> exact e

theorem effect_abortReceive {ch : ChanId} {s t : State} (h : execAbortReceive ch s = .next t) :
    Effect s (.abortReceive ch) t := by
  obtain ⟨hf, ⟨f, rfl⟩ | ⟨c, hc, hi, rfl⟩⟩ := readyStep_next h
  · exact .faulted _ _ hf rfl
  · have e := Effect.receiveAborted (s := s) ch c hc hf hi
    cases c <;> exact e

theorem effect_brz {target : Word} {s t : State} (h : execBrz target s = .next t) : Effect s (.brz target) t := by
  obtain ⟨hf, rfl⟩ := taskStep_next h
  cases hr : s.r with
  | none => simp only [raise_of_none hf]; exact .faulted _ _ hf rfl
  | some bit =>
    by_cases ht : s.program.length < target.toNat
    · simp only [if_pos ht, raise_of_none hf]; exact .faulted _ _ hf rfl
    · simp only [if_neg ht]
      have e := Effect.branched target bit hf hr (Nat.le_of_not_lt ht)
      cases bit
      · rw [if_neg Bool.false_ne_true] at e ⊢
        rw [← hr]
        exact e
      · rw [if_pos rfl] at e ⊢
        exact e

theorem effect_txEmit {ch : ChanId} {s t : State} (h : execTxEmit ch s = .next t) : Effect s (.txEmit ch) t := by
  obtain ⟨c, hc, he, rfl⟩ := eventStep_next h
  simp only [txEmitEnabled, Bool.and_eq_true, Bool.not_eq_true'] at he
  have e := Effect.emitted (s := s) ch c hc he.1.1.1 he.1.1.2 he.1.2 he.2
  cases c <;> exact e

theorem effect_rxArrive {ch : ChanId} {b : Byte} {s t : State} (h : execRxArrive ch b s = .next t) :
    Effect s (.rxArrive ch b) t := by
  obtain ⟨c, hc, he, rfl⟩ := eventStep_next h
  cases hn : (s.chan c).rxne with
  | true =>
    have e := Effect.overran (s := s) ch c b hc he hn
    rw [if_pos rfl]
    cases c <;> exact e
  | false =>
    have e := Effect.arrived (s := s) ch c b hc he hn
    rw [if_neg Bool.false_ne_true]
    cases c <;> exact e

theorem effect_forceTxCplt {ch : ChanId} {s t : State} (h : execForceTxCplt ch s = .next t) :
    Effect s (.forceTxCplt ch) t := by
  obtain ⟨c, hc, he, rfl⟩ := eventStep_next h
  have e := Effect.txForced (s := s) ch c hc he
  cases c <;> exact e

theorem effect_forceRxCplt {ch : ChanId} {s t : State} (h : execForceRxCplt ch s = .next t) :
    Effect s (.forceRxCplt ch) t := by
  obtain ⟨c, hc, he, rfl⟩ := eventStep_next h
  have e := Effect.rxForced (s := s) ch c hc he
  cases c <;> exact e

/-- Two events logged one after the other. -/
theorem append_two (h : List Event) (a b : Event) : h ++ [a, b] = (h ++ [a]) ++ [b] := by simp

/-- Three. -/
theorem append_three (h : List Event) (a b d : Event) : h ++ [a, b, d] = ((h ++ [a]) ++ [b]) ++ [d] := by simp

theorem effect_irqTC {ch : ChanId} {s t : State} (h : execIrqTC ch s = .next t) : Effect s (.irqTC ch) t := by
  obtain ⟨c, hc, he, rfl⟩ := eventStep_next h
  simp only [irqTCEnabled, Bool.and_eq_true] at he
  cases hr : (s.chan c).tx.run with
  | false =>
    have e := Effect.txSpurious (s := s) ch c hc he.1.1 he.1.2 he.2 hr
    rw [if_neg Bool.false_ne_true]
    cases c <;> exact e
  | true =>
    rw [if_pos rfl]
    by_cases hl : (s.chan c).tx.cur + 1 = (s.chan c).tx.len
    · have e := Effect.txCompleted (s := s) ch c hc he.1.1 he.1.2 he.2 hr hl
      rw [State.put, append_two] at e
      rw [advanceCursor_last (by simpa using hl)]
      cases c <;> exact e
    · have e := Effect.txAdvanced (s := s) ch c hc he.1.1 he.1.2 he.2 hr hl
      rw [advanceCursor_short (by simpa using hl)]
      cases c <;> exact e

theorem effect_irqRXNE {ch : ChanId} {s t : State} (h : execIrqRXNE ch s = .next t) : Effect s (.irqRXNE ch) t := by
  obtain ⟨c, hc, he, rfl⟩ := eventStep_next h
  simp only [irqRXNEEnabled, Bool.and_eq_true, Bool.or_eq_true, Bool.not_eq_true'] at he
  cases hr : (s.chan c).rx.run with
  | false =>
    have e := Effect.rxDiscarded (s := s) ch c hc he.1.1.1 he.1.1.2 he.1.2 hr
    rw [State.put, append_two] at e
    rw [if_neg Bool.false_ne_true]
    cases c <;> exact e
  | true =>
    have ha : s.admitted (s.chan c).rx.address = true := by
      rcases he.2 with h | h
      · rw [hr] at h; cases h
      · exact h
    rw [if_pos rfl]
    by_cases hl : (s.chan c).rx.cur + 1 = (s.chan c).rx.len
    · have e := Effect.rxCompleted (s := s) ch c hc he.1.1.1 he.1.1.2 he.1.2 hr ha hl
      rw [State.put, append_three] at e
      rw [advanceCursor_last (by simpa using hl)]
      cases c <;> exact e
    · have e := Effect.rxStored (s := s) ch c hc he.1.1.1 he.1.1.2 he.1.2 hr ha hl
      rw [State.put, append_two] at e
      rw [advanceCursor_short (by simpa using hl)]
      cases c <;> exact e

/-- What each instruction can do. -/
theorem exec_effect {i : Instr} {s t : State} (h : exec i s = .next t) : Effect s i t := by
  cases i with
  | initialise ch baud => exact effect_initialise h
  | send ch ptr len => exact effect_send h
  | receive ch ptr len => exact effect_receive h
  | isSendComplete ch => exact effect_isSendComplete h
  | isReceiveComplete ch => exact effect_isReceiveComplete h
  | abortSend ch => exact effect_abortSend h
  | abortReceive ch => exact effect_abortReceive h
  | txEmit ch => exact effect_txEmit h
  | rxArrive ch b => exact effect_rxArrive h
  | irqTC ch => exact effect_irqTC h
  | irqRXNE ch => exact effect_irqRXNE h
  | forceTxCplt ch => exact effect_forceTxCplt h
  | forceRxCplt ch => exact effect_forceRxCplt h
  | brz target => exact effect_brz h

end Sys2Proof.Machine
end

