-- ==== Sys2Proof/Laws/PerInstr.lean ====
section
/-! SUPPORT. The family RoundTrip, one lemma per row of the opcode table: decoding a row's encoding gives the row's term
back (R82, R83, R84, R89). -/

namespace Sys2Proof.Laws.RoundTrip

open Sys2Proof

/-- What the family says of one term. -/
def Statement (i : Instr) : Prop := decode (encode i) = .ok i

theorem initialise (ch : ChanId) (baud : Word) : Statement (.initialise ch baud) := by
  simp [Statement, encode, decode, Packet.op, Packet.ch, Packet.rsv, header_op, header_ch, header_rsv]

theorem send (ch : ChanId) (ptr len : Word) : Statement (.send ch ptr len) := by
  simp [Statement, encode, decode, Packet.op, Packet.ch, Packet.rsv, header_op, header_ch, header_rsv]

theorem receive (ch : ChanId) (ptr len : Word) : Statement (.receive ch ptr len) := by
  simp [Statement, encode, decode, Packet.op, Packet.ch, Packet.rsv, header_op, header_ch, header_rsv]

theorem isSendComplete (ch : ChanId) : Statement (.isSendComplete ch) := by
  simp [Statement, encode, decode, Packet.op, Packet.ch, Packet.rsv, header_op, header_ch, header_rsv]

theorem isReceiveComplete (ch : ChanId) : Statement (.isReceiveComplete ch) := by
  simp [Statement, encode, decode, Packet.op, Packet.ch, Packet.rsv, header_op, header_ch, header_rsv]

theorem abortSend (ch : ChanId) : Statement (.abortSend ch) := by
  simp [Statement, encode, decode, Packet.op, Packet.ch, Packet.rsv, header_op, header_ch, header_rsv]

theorem abortReceive (ch : ChanId) : Statement (.abortReceive ch) := by
  simp [Statement, encode, decode, Packet.op, Packet.ch, Packet.rsv, header_op, header_ch, header_rsv]

theorem txEmit (ch : ChanId) : Statement (.txEmit ch) := by
  simp [Statement, encode, decode, Packet.op, Packet.ch, Packet.rsv, header_op, header_ch, header_rsv]

theorem rxArrive (ch : ChanId) (byte : Byte) : Statement (.rxArrive ch byte) := by
  simp [Statement, encode, decode, Packet.op, Packet.ch, Packet.rsv, Packet.byte, header_op, header_ch, header_rsv,
    BitVec.setWidth_setWidth_of_le]

theorem irqTC (ch : ChanId) : Statement (.irqTC ch) := by
  simp [Statement, encode, decode, Packet.op, Packet.ch, Packet.rsv, header_op, header_ch, header_rsv]

theorem irqRXNE (ch : ChanId) : Statement (.irqRXNE ch) := by
  simp [Statement, encode, decode, Packet.op, Packet.ch, Packet.rsv, header_op, header_ch, header_rsv]

theorem forceTxCplt (ch : ChanId) : Statement (.forceTxCplt ch) := by
  simp [Statement, encode, decode, Packet.op, Packet.ch, Packet.rsv, header_op, header_ch, header_rsv]

theorem forceRxCplt (ch : ChanId) : Statement (.forceRxCplt ch) := by
  simp [Statement, encode, decode, Packet.op, Packet.ch, Packet.rsv, header_op, header_ch, header_rsv]

theorem brz (target : Word) : Statement (.brz target) := by
  simp [Statement, encode, decode, Packet.op, Packet.ch, Packet.rsv, header_op, header_ch, header_rsv]

end Sys2Proof.Laws.RoundTrip
end

