-- ==== Sys2Proof/Laws/Step.lean ====
section
/-! SUPPORT. What one step can do, said once. -/

namespace Sys2Proof.Machine

open Sys2Proof.Safety

@[simp] theorem State.chan_withSchedule (s : State) (r : List Line) (c : Chan) :
    State.chan { s with schedule := r } c = s.chan c := by cases c <;> rfl

@[simp] theorem outsideWrite_chan (a : Word) (v : Byte) (s : State) (c : Chan) :
    (outsideWrite a v s).chan c = s.chan c := by cases c <;> rfl

/-- A step takes the schedule's first line and makes its move. -/
theorem step_next {s t : State} (h : step s = .next t) :
    ∃ l rest, s.schedule = l :: rest ∧ move l { s with schedule := rest } = .next t := by
  unfold step nextLine at h
  cases hs : s.schedule with
  | nil => rw [hs] at h; cases h
  | cons l rest => rw [hs] at h; exact ⟨l, rest, rfl, h⟩

theorem step_cons {s : State} {l : Line} {rest : List Line} (h : s.schedule = l :: rest) :
    step s = move l { s with schedule := rest } := by
  unfold step nextLine
  rw [h]

/-- The statement a task line runs is a command or `brz`. -/
theorem fetchStatement_ok {s : State} {i : Instr} (h : fetchStatement s = .ok i) :
    s.fault = none ∧ ∃ p, s.program[s.tpc]? = some p ∧ decode p = .ok i ∧ i.isStatement = true := by
  unfold fetchStatement at h
  cases hf : s.fault with
  | some f => rw [hf] at h; cases h
  | none =>
    rw [hf] at h
    cases hp : s.program[s.tpc]? with
    | none => rw [hp] at h; cases h
    | some p =>
      rw [hp] at h
      cases hd : decodeStatement p with
      | error e => simp only [hd] at h; cases h
      | ok j =>
        simp only [hd] at h
        cases h
        exact ⟨rfl, p, rfl, decodeOn_ok_iff.1 hd⟩

/-- The moves of a line: an instruction, an illegal packet of the task, or an outside write. -/
theorem move_next {l : Line} {s t : State} (h : move l s = .next t) :
    (∃ i, fetchLine l s = .ok i ∧ exec i s = .next t) ∨
    (∃ p, l = .task ∧ s.fault = none ∧ s.program[s.tpc]? = some p ∧ (∃ e, decodeStatement p = .error e) ∧
      t = Faulted (.illegal p.w0) s) ∨
    (∃ a v, l = .write a v ∧ t = outsideWrite a v s) := by
  unfold move at h
  cases hl : fetchLine l s with
  | ok i => rw [hl] at h; exact .inl ⟨i, rfl, h⟩
  | error o =>
    rw [hl] at h
    refine .inr ?_
    cases l with
    | task =>
      unfold fetchLine fetchStatement at hl
      cases hf : s.fault with
      | some f => rw [hf] at hl; cases hl; cases h
      | none =>
        rw [hf] at hl
        cases hp : s.program[s.tpc]? with
        | none => rw [hp] at hl; cases hl; cases h
        | some p =>
          rw [hp] at hl
          cases hd : decodeStatement p with
          | ok j => simp only [hd] at hl; cases hl
          | error e =>
            simp only [hd] at hl
            cases hl
            cases h
            exact .inl ⟨p, rfl, rfl, rfl, ⟨e, hd⟩, raise_of_none hf _⟩
    | event p =>
      unfold fetchLine at hl
      cases hd : decodeEvent p with
      | ok j => simp only [hd] at hl; cases hl
      | error e => simp only [hd] at hl; cases hl; cases h
    | write a v => cases hl; cases h; exact .inr ⟨a, v, rfl, rfl⟩

/-- What a line's instruction is: a statement of the task agent, or the event the line encodes. -/
theorem fetchLine_ok {l : Line} {s : State} {i : Instr} (h : fetchLine l s = .ok i) :
    (l = .task ∧ s.fault = none ∧ s.tpc < s.program.length ∧ i.isStatement = true) ∨
    (∃ p, l = .event p ∧ decodeEvent p = .ok i ∧ i.isEvent = true) := by
  cases l with
  | task =>
    obtain ⟨hf, p, hp, -, hi⟩ := fetchStatement_ok h
    exact .inl ⟨rfl, hf, (List.getElem?_eq_some_iff.1 hp).1, hi⟩
  | event p =>
    unfold fetchLine at h
    cases hd : decodeEvent p with
    | error e => simp only [hd] at h; cases h
    | ok j =>
      simp only [hd] at h
      cases h
      exact .inr ⟨p, rfl, hd, (decodeOn_ok_iff.1 hd).2⟩
  | write a v => cases h

/-- The moves of a line, with what an instruction can do spelled out. -/
theorem move_effect {l : Line} {s t : State} (h : move l s = .next t) :
    (∃ i, fetchLine l s = .ok i ∧ Effect s i t) ∨
    (∃ p : Packet, l = .task ∧ s.fault = none ∧ t = Faulted (.illegal p.w0) s) ∨
    (∃ a v, l = .write a v ∧ t = outsideWrite a v s) := by
  rcases move_next h with ⟨i, hi, he⟩ | ⟨p, hl, hf, -, -, ht⟩ | h
  · exact .inl ⟨i, hi, exec_effect he⟩
  · exact .inr (.inl ⟨p, hl, hf, ht⟩)
  · exact .inr (.inr h)

/-- The instruction a step runs is the one its line asks for. -/
theorem nextInstr_cons {s : State} {l : Line} {rest : List Line} {i : Instr} (h : s.schedule = l :: rest)
    (hi : fetchLine l { s with schedule := rest } = .ok i) : nextInstr s = some i := by
  unfold nextInstr nextLine
  rw [h]
  simp only [hi]

/-- What one step can do: run an instruction on the state with the line taken, raise F_ILLEGAL for a task packet that is no
statement, or write a byte from outside. -/
theorem step_effect {s t : State} (h : step s = .next t) :
    ∃ l rest, s.schedule = l :: rest ∧
      ((∃ i, nextInstr s = some i ∧ fetchLine l { s with schedule := rest } = .ok i ∧
        Effect { s with schedule := rest } i t) ∨
      (∃ p : Packet, l = .task ∧ s.fault = none ∧ t = Faulted (.illegal p.w0) { s with schedule := rest }) ∨
      (∃ a v, l = .write a v ∧ t = outsideWrite a v { s with schedule := rest })) := by
  obtain ⟨l, rest, hs, hm⟩ := step_next h
  refine ⟨l, rest, hs, ?_⟩
  rcases move_effect hm with ⟨i, hi, he⟩ | ⟨p, hl, hf, ht⟩ | hw
  · exact .inl ⟨i, nextInstr_cons hs hi, hi, he⟩
  · exact .inr (.inl ⟨p, hl, hf, ht⟩)
  · exact .inr (.inr hw)

/-- The canonical form of memory: at reset, after an outside write, after a load. -/
theorem reset_mem_wf : State.reset.mem.wf := Memory.wf_nil

theorem outsideWrite_wf {s : State} (h : s.mem.wf) (a : Word) (v : Byte) : (outsideWrite a v s).mem.wf :=
  Memory.wf_write h a.isLt v

theorem load_wf {s : State} (h : s.mem.wf) (program : List Packet) (schedule : List Line) (bytes : List (Word × Byte))
    (launch : Launch) : (s.load program schedule bytes launch).mem.wf := by
  have key : ∀ (bs : List (Word × Byte)) (u : State), u.mem.wf →
      (bs.foldl (fun s x => outsideWrite x.1 x.2 s) u).mem.wf := by
    intro bs
    induction bs with
    | nil => exact fun _ hu => hu
    | cons b bs ih => exact fun u hu => ih _ (outsideWrite_wf hu b.1 b.2)
  exact key bytes _ h

end Sys2Proof.Machine
end

