-- ==== Sys2Proof/Tests/Slice0.lean ====
section
/-! SUPPORT. Tests: the WellFormed smoke, decoding of words written out from the spec (R93 and the vectors E-1 to E-18 of
95_test_vectors.md), single steps whose ends are the vectors of 95_test_vectors.md (each test names its vector), the
host's two questions, and, for every obligation with hypotheses, a concrete state and operands that meet all of them. -/

namespace Sys2Proof.Tests

open Sys2Proof Sys2Proof.Machine Sys2Proof.Safety

/-! ## States the tests start from -/

/-- The next state of an outcome, if it has one. -/
def after (o : Result) : Option State :=
  match o with
  | .next t => some t
  | .fault _ => none
  | .refused _ => none

/-- The refusal of an outcome, if it is one. -/
def refusal (o : Result) : Option Refusal :=
  match o with
  | .next _ => none
  | .fault _ => none
  | .refused r => some r

/-- The fault of an outcome, if it is one. -/
def stuck (o : Result) : Option Fault :=
  match o with
  | .next _ => none
  | .fault f => some f
  | .refused _ => none

/-- A channel as `initialize` with 115200 leaves it. -/
def ready : ChanState := ChanState.reset.initialised 115200

/-- `S1` of 95_test_vectors.md, with the two bytes of its scenario B in memory. -/
def s1 : State :=
  { State.reset with
    ch1 := ready, tpc := 1, hist := [.init .ch1 115200], mem := [(0x20000000, 0x41), (0x20000001, 0x42)]
    program := List.replicate 4 ⟨0, 0, 0⟩ }

/-- `s1` with a transmit of channel 1 armed: bytes in the buffer, cursor, pending event. -/
def armedTx (len cur : Word) (tc : Bool) : State :=
  { s1 with ch1 := { ready with tx := ⟨true, 0x20000000, len, cur⟩, txBusy := true, tc := tc }, tpc := 2 }

/-- `SA` of 95_test_vectors.md. -/
def sa : State := armedTx 2 0 false

/-- `s1` with a receive of channel 1 armed: length, cursor, pending byte. -/
def armedRx (len cur : Word) (rxne : Bool) (rdr : Byte) : State :=
  { s1 with ch1 := { ready with rx := ⟨true, 0x20000010, len, cur⟩, rxBusy := true, rxne := rxne, rdr := rdr } }

/-- `s1` with a byte waiting and no receive armed. -/
def waiting : State := { s1 with ch1 := { ready with rxne := true, rdr := 0x58 } }

/-- `s1` with a fault raised. -/
def faulted : State := { s1 with fault := some (.config 2) }

/-! ## WellFormed (R89) -/

theorem test_wf_refuses_event_on_channel_2 : Instr.wellFormed (.txEmit 2) = false := by decide

theorem test_wf_refuses_every_event_on_channel_255 :
    Instr.wellFormed (.rxArrive 255 0x5A) = false ∧ Instr.wellFormed (.irqTC 255) = false ∧
    Instr.wellFormed (.irqRXNE 255) = false ∧ Instr.wellFormed (.forceTxCplt 255) = false ∧
    Instr.wellFormed (.forceRxCplt 255) = false := by decide

/-- E-8: a command on an unknown channel is well formed as an encoding. -/
theorem test_wf_takes_command_on_channel_255 : Instr.wellFormed (.send 255 0x20000000 1) = true := by decide

theorem test_wf_takes_event_on_channel_1 : Instr.wellFormed (.irqTC 1) = true := by decide

/-! ## Decoding: one word of every row, written out from R82, R84, R89 and R93 -/

theorem test_decode_initialise : decode ⟨0x01010000, 0x00002580, 0x00000000⟩ = .ok (.initialise 1 9600) := by decide
theorem test_decode_send : decode ⟨0x02010000, 0x20000100, 0x00000003⟩ = .ok (.send 1 0x20000100 3) := by decide
theorem test_decode_receive : decode ⟨0x03000000, 0x20000010, 0x00000004⟩ = .ok (.receive 0 0x20000010 4) := by decide
theorem test_decode_isSendComplete : decode ⟨0x04000000, 0xDEADBEEF, 0x12345678⟩ = .ok (.isSendComplete 0) := by decide
theorem test_decode_isReceiveComplete : decode ⟨0x05010000, 0, 0⟩ = .ok (.isReceiveComplete 1) := by decide
theorem test_decode_abortSend : decode ⟨0x06000000, 0, 0⟩ = .ok (.abortSend 0) := by decide
theorem test_decode_abortReceive : decode ⟨0x07010000, 0, 0⟩ = .ok (.abortReceive 1) := by decide
theorem test_decode_txEmit : decode ⟨0x10010000, 0, 0⟩ = .ok (.txEmit 1) := by decide
theorem test_decode_rxArrive : decode ⟨0x11000000, 0x0000015A, 0⟩ = .ok (.rxArrive 0 0x5A) := by decide
theorem test_decode_irqTC : decode ⟨0x12010000, 0, 0⟩ = .ok (.irqTC 1) := by decide
theorem test_decode_irqRXNE : decode ⟨0x13010000, 0, 0⟩ = .ok (.irqRXNE 1) := by decide
theorem test_decode_forceTxCplt : decode ⟨0x14010000, 0, 0⟩ = .ok (.forceTxCplt 1) := by decide
theorem test_decode_forceRxCplt : decode ⟨0x15010000, 0, 0⟩ = .ok (.forceRxCplt 1) := by decide
theorem test_decode_brz : decode ⟨0x20000000, 0x00000002, 0⟩ = .ok (.brz 2) := by decide

/-- E-8. -/
theorem test_decode_unknown_channel : decode ⟨0x02FF0000, 0x20000000, 1⟩ = .ok (.send 255 0x20000000 1) := by decide

/-- E-9, E-10, E-11: reserved opcodes. -/
theorem test_decode_reserved_opcodes :
    decode ⟨0x00000000, 0, 0⟩ = .error (.reservedOpcode 0x00) ∧ decode ⟨0x08000000, 0, 0⟩ = .error (.reservedOpcode 0x08) ∧
    decode ⟨0xFF000000, 0, 0⟩ = .error (.reservedOpcode 0xFF) := by decide

/-- E-12, E-13, E-18: reserved bits, before the opcode and the channel. -/
theorem test_decode_reserved_bits :
    decode ⟨0x02000001, 0x20000000, 2⟩ = .error (.reservedBits 0x0001) ∧
    decode ⟨0x0200FF00, 0x20000000, 2⟩ = .error (.reservedBits 0xFF00) ∧
    decode ⟨0x020200FF, 0, 0⟩ = .error (.reservedBits 0x00FF) := by decide

/-- E-14: an event opcode is reserved on the command port and an event in a stimulus file. -/
theorem test_decode_event_on_command_port :
    decodeCommand ⟨0x12000000, 0, 0⟩ = .error (.wrongPort 0x12) ∧ decodeStatement ⟨0x12000000, 0, 0⟩ = .error (.wrongPort 0x12) ∧
    decodeEvent ⟨0x12000000, 0, 0⟩ = .ok (.irqTC 0) := by decide

/-- E-15, E-16: `brz` is a statement of a task program only, and requires channel field 0. -/
theorem test_decode_brz_ports :
    decodeStatement ⟨0x20000000, 2, 0⟩ = .ok (.brz 2) ∧ decodeCommand ⟨0x20000000, 2, 0⟩ = .error (.wrongPort 0x20) ∧
    decode ⟨0x20010000, 2, 0⟩ = .error (.brzChannel 1) := by decide

/-- R93, the encoder's direction. -/
theorem test_encode_words :
    encode (.initialise 0 115200) = ⟨0x01000000, 0x0001C200, 0x00000000⟩ ∧
    encode (.send 0 0x20000000 2) = ⟨0x02000000, 0x20000000, 0x00000002⟩ ∧
    encode (.abortReceive 1) = ⟨0x07010000, 0, 0⟩ ∧ encode (.rxArrive 0 0x5A) = ⟨0x11000000, 0x0000005A, 0⟩ ∧
    encode (.brz 2) = ⟨0x20000000, 2, 0⟩ := by decide

/-! ## The assembler (R90 to R92) -/

/-- P1 of 95_test_vectors.md. -/
theorem test_assemble_p1 :
    assemble [.stmt (.initialise 0 115200), .stmt (.send 0 0x20000000 2), .waitSend 0] =
      some [⟨0x01000000, 0x0001C200, 0⟩, ⟨0x02000000, 0x20000000, 2⟩, ⟨0x04000000, 0, 0⟩, ⟨0x20000000, 2, 0⟩] := by decide

/-- R90: a label takes no index. -/
theorem test_assemble_label :
    assemble [.stmt (.abortSend 0), .label "L", .stmt (.isSendComplete 0), .brzTo "L"] =
      some [⟨0x06000000, 0, 0⟩, ⟨0x04000000, 0, 0⟩, ⟨0x20000000, 1, 0⟩] := by decide

/-- R90, R91. -/
theorem test_render :
    renderStatement (.send 2 0x20000000 1) = some "send #2, 536870912, 1" ∧
    renderEvent (.rxArrive 0 0x5A) = some "!rxarrive ch1, 90" := by decide

/-! ## The host's two questions -/

/-- The numbering of the opcode table: `W0` in bits 31..0, `W1` in 63..32, `W2` in 95..64. -/
theorem test_decodeTableWord :
    decodeTableWord 96 0x000000032000010002010000 = some (.send 1 0x20000100 3) ∧
    decodeTableWord 32 0x04000000 = some (.isSendComplete 0) ∧ decodeTableWord 32 0x08000000 = none := by decide

/-- A command placed by withFetchWord is the next step's (I-1 on the spec's own packet). -/
theorem test_withFetchWord_command :
    (after (step (State.reset.withFetchWord 96 0x000000000001C20001000000))).map
      (fun t => (t.ch1.inited, t.ch1.baud, t.tpc)) = some (true, 115200, 1) := by decide

/-- T-9: an event placed by withFetchWord is the next step's; at reset its condition is false. -/
theorem test_withFetchWord_event :
    refusal (step (State.reset.withFetchWord 96 0x0000005A11000000)) = some .eventNotEnabled := by decide

/-- A run loaded from outside: P1's first statement and its launch memory (R44, R60, R91). -/
theorem test_load :
    (after (step (State.reset.load [encode (.initialise 0 115200)] [.task]
        [(0x20000001, 0x42), (0x20000000, 0x41)] Launch.reset))).map (fun t => (t.ch1.baud, t.mem)) =
      some (115200, [(0x20000000, 0x41), (0x20000001, 0x42)]) := by decide

/-! ## Single steps -/

/-- I-1. -/
theorem test_initialise :
    (after (exec (.initialise 0 115200) State.reset)).map (fun t =>
      (flagsWord t.ch1, ctrlWord t.ch1, t.ch1.baud, t.tpc, t.hist)) =
      some (0b00, 0b1111, 115200, 1, [.init .ch1 115200]) := by decide

/-- I-4, I-7, I-8, I-5: the order of the checks. -/
theorem test_initialise_faults :
    (after (exec (.initialise 0 9600) s1)).map (fun t => (t.fault, t.ch1.baud, t.tpc)) =
      some (some (.reinit .ch1), 115200, 1) ∧
    (after (exec (.initialise 2 0) State.reset)).map (·.fault) = some (some (.config 2)) ∧
    (after (exec (.initialise 0 0) s1)).map (·.fault) = some (some (.reinit .ch1)) ∧
    (after (exec (.initialise 0 0) State.reset)).map (·.fault) = some (some (.badBaud .ch1 0)) := by decide

/-- S-1, S-4. -/
theorem test_send_arms :
    (after (exec (.send 0 0x20000000 2) s1)).map (fun t => (t.ch1.tx, flagsWord t.ch1, t.tpc, t.hist)) =
      some (⟨true, 0x20000000, 2, 0⟩, 0b01, 2, [.init .ch1 115200, .arm .ch1 .tx 0x20000000 2]) ∧
    (after (exec (.send 0 0xFFFFFFFF 1) s1)).map (·.ch1.tx) = some ⟨true, 0xFFFFFFFF, 1, 0⟩ := by decide

/-- S-2, S-11, S-7, S-10. -/
theorem test_send_drops_or_faults :
    (after (exec (.send 0 0x20000100 3) sa)).map (fun t => (t.ch1.tx, t.tpc, t.hist.getLast?)) =
      some (⟨true, 0x20000000, 2, 0⟩, 3, some (.drop .ch1 .tx)) ∧
    (after (exec (.send 0 0x20000100 0) sa)).map (·.fault) = some (some (.badLen .ch1 .tx)) ∧
    (after (exec (.send 0 2 0xFFFFFFFF) s1)).map (·.fault) = some (some (.badBuf .ch1 .tx 2 0xFFFFFFFF)) ∧
    (after (exec (.send 1 0x20000000 0) s1)).map (·.fault) = some (some (.uninit .ch2)) := by decide

/-- S-14, S-15. -/
theorem test_receive :
    (after (exec (.receive 0 0x20000010 4) sa)).map (fun t => (t.ch1.rx, flagsWord t.ch1, t.ch1.tx)) =
      some (⟨true, 0x20000010, 4, 0⟩, 0b11, ⟨true, 0x20000000, 2, 0⟩) ∧
    (after (exec (.receive 0 0x20000080 1) (armedRx 4 0 false 0))).map (fun t => (t.ch1.rx, t.hist.getLast?)) =
      some (⟨true, 0x20000010, 4, 0⟩, some (.drop .ch1 .rx)) := by decide

/-- S-16: a waiting byte is not flushed. -/
theorem test_receive_keeps_waiting_byte :
    (after (exec (.receive 0 0x20000010 2) waiting)).map (fun t => (t.ch1.rx.run, t.ch1.rxne, t.ch1.rdr)) =
      some (true, true, 0x58) := by decide

/-- Q-1, Q-2. -/
theorem test_isSendComplete :
    (after (exec (.isSendComplete 0) s1)).map (fun t => (t.r, t.tpc)) = some (some true, 2) ∧
    (after (exec (.isSendComplete 0) sa)).map (fun t => (t.r, t.hist.getLast?)) =
      some (some false, some (.query .ch1 .tx false)) := by decide

/-- Q-3, Q-6. -/
theorem test_isReceiveComplete :
    (after (exec (.isReceiveComplete 0) sa)).map (·.r) = some (some true) ∧
    (after (exec (.isReceiveComplete 5) s1)).map (·.fault) = some (some (.config 5)) := by decide

/-- Q-8, Q-9, Q-10. -/
theorem test_brz_branches :
    (after (exec (.brz 2) { s1 with r := some false, tpc := 3 })).map (·.tpc) = some 2 ∧
    (after (exec (.brz 2) { s1 with r := some true, tpc := 3 })).map (·.tpc) = some 4 ∧
    (after (exec (.brz 4) { s1 with r := some false, tpc := 3 })).map (·.tpc) = some 4 := by decide

/-- Q-7, Q-11. -/
theorem test_brz_illegal :
    (after (exec (.brz 0) s1)).map (·.fault) = some (some (.illegal 0x20000000)) ∧
    (after (exec (.brz 5) { s1 with r := some true, tpc := 3 })).map (fun t => (t.fault, t.tpc)) =
      some (some (.illegal 0x20000000), 3) := by decide

/-- A-2: the pending event goes, the line stays. -/
theorem test_abortSend :
    (after (exec (.abortSend 0) { armedTx 2 0 true with hist := [] })).map
      (fun t => (t.ch1.tx, t.ch1.tc, flagsWord t.ch1, t.hist)) =
      some (⟨false, 0x20000000, 2, 0⟩, false, 0b00, [.cancel .ch1 .tx]) := by decide

/-- A-3: on an idle direction. -/
theorem test_abortSend_idle :
    (after (exec (.abortSend 0) s1)).map (fun t => (t.ch1.tx.run, t.tpc, cancelcount .ch1 .tx t.hist)) =
      some (false, 2, 1) := by decide

/-- A-7: the waiting byte stays. -/
theorem test_abortReceive :
    (after (exec (.abortReceive 0) (armedRx 4 1 true 0x62))).map
      (fun t => (t.ch1.rx, flagsWord t.ch1, t.ch1.rxne, t.ch1.rdr)) =
      some (⟨false, 0x20000010, 4, 1⟩, 0b00, true, 0x62) := by decide

/-- T-1. -/
theorem test_txEmit :
    (after (exec (.txEmit 0) sa)).map (fun t => (t.ch1.txLine, t.ch1.tc, t.ch1.tx.cur, t.hist.getLast?)) =
      some ([0x41], true, 0, some (.txByte .ch1 0x41)) := by decide

/-- T-2, T-3, T-4. -/
theorem test_txEmit_not_enabled :
    refusal (exec (.txEmit 0) (armedTx 2 0 true)) = some .eventNotEnabled ∧
    refusal (exec (.txEmit 0) s1) = some .eventNotEnabled ∧
    refusal (exec (.txEmit 0) { sa with launch := { Launch.reset with adm := [⟨0x20000001, 0xFFFFFFFF⟩] } }) =
      some .eventNotEnabled := by decide

/-- T-7. -/
theorem test_rxArrive :
    (after (exec (.rxArrive 0 0x5A) s1)).map (fun t => (t.ch1.rdr, t.ch1.rxne, t.ch1.ovr)) =
      some (0x5A, true, false) := by decide

/-- T-8: what the rule fixes, whichever byte survives. -/
theorem test_rxArrive_overrun :
    (after (exec (.rxArrive 0 0x5B) waiting)).map (fun t => (t.ch1.rxne, t.ch1.ovr, t.hist.drop 1)) =
      some (true, true, [.rxArrive .ch1 0x5B, .overrun .ch1]) := by decide

/-- X-1, X-3. -/
theorem test_irqTC :
    (after (exec (.irqTC 0) (armedTx 2 0 true))).map (fun t => (t.ch1.tx, t.ch1.tc, flagsWord t.ch1)) =
      some (⟨true, 0x20000000, 2, 1⟩, false, 0b01) ∧
    (after (exec (.irqTC 0) (armedTx 1 0 true))).map (fun t => (t.ch1.tx, flagsWord t.ch1)) =
      some (⟨false, 0x20000000, 1, 1⟩, 0b00) := by decide

/-- X-2: the last byte's event, with the callback in the history. -/
theorem test_irqTC_completes :
    (after (exec (.irqTC 0) (armedTx 2 1 true))).map (fun t => (t.ch1.tx.run, flagsWord t.ch1, t.hist.drop 1)) =
      some (false, 0b00, [.irq .ch1 .tc, .cplt .ch1 .tx]) := by decide

/-- X-5, X-6. -/
theorem test_irqRXNE_stores :
    (after (exec (.irqRXNE 0) (armedRx 4 0 true 0x5A))).map
      (fun t => (memRead t 0x20000010, t.ch1.rx.cur, t.ch1.rxne, flagsWord t.ch1)) = some (0x5A, 1, false, 0b10) ∧
    (after (exec (.irqRXNE 0) (armedRx 4 3 true 0x5D))).map
      (fun t => (memRead t 0x20000013, t.ch1.rx, flagsWord t.ch1, t.hist.drop 1)) =
      some (0x5D, ⟨false, 0x20000010, 4, 4⟩, 0b00,
        [.irq .ch1 .rxne, .rxStore .ch1 0x20000013 0x5D, .cplt .ch1 .rx]) := by decide

/-- X-7. -/
theorem test_irqRXNE_discards :
    (after (exec (.irqRXNE 0) waiting)).map (fun t => (t.ch1.rxne, t.mem, t.hist.drop 1)) =
      some (false, s1.mem, [.irq .ch1 .rxne, .rxDiscard .ch1 0x58]) := by decide

/-- F-1. -/
theorem test_forceTxCplt :
    (after (exec (.forceTxCplt 0) sa)).map (fun t => (t.ch1.tx.run, t.ch1.tc, flagsWord t.ch1, t.hist.getLast?)) =
      some (false, false, 0b00, some (.cplt .ch1 .tx)) := by decide

/-- F-3. -/
theorem test_forceRxCplt :
    (after (exec (.forceRxCplt 0) (armedRx 4 1 true 0x62))).map
      (fun t => (t.ch1.rx.run, flagsWord t.ch1, t.ch1.rxne, t.ch1.rdr)) = some (false, 0b00, true, 0x62) := by decide

/-- X-10: the completion of channel 2's receive leaves channel 1's flag set. -/
theorem test_completion_clears_its_own_channel :
    (after (exec (.irqRXNE 1) { armedRx 1 0 false 0 with
      ch2 := { ready with rx := ⟨true, 0x20000040, 1, 0⟩, rxBusy := true, rxne := true, rdr := 0x99 } })).map
      (fun t => (memRead t 0x20000040, flagsWord t.ch2, flagsWord t.ch1)) = some (0x99, 0b00, 0b10) := by decide

/-- FA-2 and T-10: the task agent is halted, the datapath is not. -/
theorem test_fault_halts_the_task_only :
    stuck (exec (.abortSend 0) faulted) = some .taskHalted ∧
    (after (exec (.txEmit 0) { sa with fault := some (.config 2) })).map (fun t => (t.ch1.tc, t.fault)) =
      some (true, some (.config 2)) := by decide

/-- FA-5: decode comes first. -/
theorem test_illegal_statement :
    (after (step { s1 with program := [⟨0, 0, 0⟩, ⟨0x0802FFFF, 0, 0⟩], schedule := [.task] })).map
      (fun t => (t.fault, t.tpc, t.r)) = some (some (.illegal 0x0802FFFF), 1, none) := by decide

/-- R45, R89, R91: lines that no step answers. -/
theorem test_lines_refused :
    refusal (step { s1 with tpc := 4, schedule := [.task] }) = some .taskFinished ∧
    refusal (step { s1 with schedule := [.event ⟨0x02000000, 0, 0⟩] }) = some .lineNotAnEvent ∧
    refusal (step { s1 with schedule := [.event ⟨0x10020000, 0, 0⟩] }) = some .eventUnknownChannel ∧
    refusal (step s1) = some .scheduleEnded := by decide

/-- T-6: an outside write between two bytes is what the engine reads. -/
theorem test_outside_write :
    (after (step { sa with schedule := [.write 0x20000001 0x99] })).map (fun t => memRead t 0x20000001) =
      some 0x99 := by decide

/-- FA-4. -/
theorem test_fault_codes :
    [FaultKind.config, .illegal, .uninit, .reinit, .badBaud, .badLen, .badBuf].map FaultKind.code =
      [1, 2, 3, 4, 5, 6, 7] := by decide

/-- X-12. -/
theorem test_irqRequest :
    irqRequest { ready with rxne := true } = true ∧ irqRequest ready = false ∧
    irqRequest { ChanState.reset with rxne := true, tc := true } = false := by decide

/-! ## Witnesses: for every obligation with hypotheses, a state and operands that meet all of them

Each is named after the obligation. Where a hypothesis is that a step or an instruction answers a next state, the witness
computes it. -/

/-- The lines of the events the witnesses list. -/
def emitLine : Line := .event ⟨0x10000000, 0, 0⟩
def irqTCLine : Line := .event ⟨0x12000000, 0, 0⟩
def arriveLine (b : Word) : Line := .event ⟨0x11000000, b, 0⟩
def irqRXNELine : Line := .event ⟨0x13000000, 0, 0⟩

/-- Channel 2 ready as well. -/
def both (s : State) : State := { s with ch2 := ready }

theorem chanOk_reset : ChanOk ChanState.reset :=
  ⟨rfl, rfl, fun h => (by cases h), fun h => (by cases h), fun h => (by cases h), fun _ => ⟨rfl, rfl, rfl, rfl, rfl, rfl⟩,
    fun h => by cases h⟩

theorem chanOk_ready : ChanOk ready :=
  ⟨rfl, rfl, fun h => (by cases h), fun h => (by cases h), fun h => (by cases h), fun h => (by cases h), fun _ => ⟨rfl, rfl, rfl⟩⟩

theorem inv_of (s : State) (h1 : ChanOk s.ch1) (h2 : ChanOk s.ch2) (hm : s.mem.wf) (ht : s.tpc ≤ s.program.length) : StateInv s :=
  ⟨fun c _ => by cases c <;> assumption, hm, ht⟩

theorem inv_s1 : StateInv s1 := inv_of s1 chanOk_ready chanOk_reset (by decide) (by decide)

theorem engineOk_tx : EngineOk ⟨true, 0x20000000, 1, 0⟩ := fun _ => by decide

theorem engineOk_rx : EngineOk ⟨true, 0x20000010, 1, 0⟩ := fun _ => by decide

theorem inv_armedTx (tc : Bool) (sched : List Line) : StateInv { armedTx 1 0 tc with schedule := sched } :=
  inv_of _ ⟨rfl, rfl, engineOk_tx, fun h => (by cases h), fun _ => rfl, fun h => (by cases h), fun _ => ⟨rfl, rfl, rfl⟩⟩
    chanOk_reset (by show Memory.wf s1.mem; decide) (by show 2 ≤ s1.program.length; decide)

theorem inv_armedRx (rxne : Bool) (rdr : Byte) (sched : List Line) : StateInv { armedRx 1 0 rxne rdr with schedule := sched } :=
  inv_of _ ⟨rfl, rfl, fun h => (by cases h), engineOk_rx, fun h => (by cases h), fun h => (by cases h),
    fun _ => ⟨rfl, rfl, rfl⟩⟩
    chanOk_reset (by show Memory.wf s1.mem; decide) (by show 1 ≤ s1.program.length; decide)

/-- At the launch parameters of State.reset every channel is ready (R196). -/
theorem ready_all (s : State) (h : s.launch = Launch.reset) : PinsClocksReady s := by
  intro c
  unfold State.pinsClocksReady
  rw [h]
  cases c <;> rfl

/-- A step of an event that is not forced is a step of the machine proper. -/
theorem proper_of {s t : State} {i : Instr} (h : step s = .next t) (hi : nextInstr s = some i)
    (hn : ∀ ch, i ≠ .forceTxCplt ch ∧ i ≠ .forceRxCplt ch) : ProperStep s t := by
  refine ⟨h, ?_⟩
  rintro ⟨ch, hf | hf⟩ <;> rw [hi] at hf <;> cases hf
  · exact (hn ch).1 rfl
  · exact (hn ch).2 rfl

theorem witness_DecodedTermHasThePacketsWords :
    decode ⟨0x02010000, 0x20000100, 3⟩ = .ok (.send 1 0x20000100 3) ∧
    decode ⟨0x04000000, 1, 2⟩ = .ok (.isSendComplete 0) ∧ decode ⟨0x04000000, 0xFFFFFFFF, 0xFFFFFFFF⟩ = .ok (.isSendComplete 0) ∧
    decode ⟨0x11000000, 0x15A, 7⟩ = .ok (.rxArrive 0 0x5A) ∧
    (0x5A : Word).setWidth 8 = (0x15A : Word).setWidth 8 := by decide

theorem witness_IllegalPacketFaultsAndChangesNothingElse :
    let s := { s1 with schedule := [.task], program := [⟨0, 0, 0⟩, ⟨0x08000000, 0, 0⟩] }
    s.schedule = .task :: [] ∧ s.fault = none ∧ s.program[s.tpc]? = some ⟨0x08000000, 0, 0⟩ ∧
    decodeCommand ⟨0x08000000, 0, 0⟩ = .error (.reservedOpcode 8) ∧ (0x08000000 : Word) ≠ 0x20000000 ∧
    decodeCommand ⟨0x00000000, 0, 0⟩ = .error (.reservedOpcode 0) ∧ decodeCommand ⟨0x01000000, 0, 0⟩ = .ok (.initialise 0 0) ∧
    decodeCommand ⟨0x07FF0000, 0, 0⟩ = .ok (.abortReceive 255) ∧
    decodeCommand ⟨0x07000001, 0, 0⟩ = .error (.reservedBits 1) := by decide

theorem witness_TaskLineRunsTheStatementAtTpc :
    let s := { s1 with schedule := [.task], program := [⟨0, 0, 0⟩, ⟨0x20000000, 0, 0⟩] }
    s.schedule = .task :: [] ∧ s.fault = none ∧ s.program[s.tpc]? = some ⟨0x20000000, 0, 0⟩ ∧
    decodeStatement ⟨0x20000000, 0, 0⟩ = .ok (.brz 0) := by decide

theorem witness_EventLineRunsTheEvent :
    { s1 with schedule := [emitLine] }.schedule = .event ⟨0x10000000, 0, 0⟩ :: [] ∧
    decodeEvent ⟨0x10000000, 0, 0⟩ = .ok (.txEmit 0) := by decide

theorem witness_AnyEnabledMoveMayBeNext : ∃ t, move emitLine sa = .next t := ⟨_, rfl⟩

theorem witness_OutsideWriteChangesOneByte :
    { s1 with schedule := [.write 0xFFFFFFFF 0] }.schedule = .write 0xFFFFFFFF 0 :: [] ∧ s1.mem.wf := by decide

theorem witness_InitialiseMakesTheChannelReady :
    chanOfId 1 = some .ch2 ∧ s1.pinsClocksReady .ch2 = true ∧ s1.fault = none ∧ (s1.chan .ch2).inited = false ∧ s1.baudOK 1 = true ∧
    s1.baudOK 0xFFFFFFFF = true := by decide

theorem witness_InitialiseFaultsInOrder :
    chanOfId 0 = some .ch1 ∧ s1.pinsClocksReady .ch1 = true ∧ s1.fault = none ∧ (s1.chan .ch1).inited = true ∧
    chanOfId 1 = some .ch2 ∧ s1.pinsClocksReady .ch2 = true ∧ (s1.chan .ch2).inited = false ∧ s1.baudOK 0 = false := by decide

theorem witness_InitialisedChannelAnswersComplete :
    (∀ c, chanOfId 1 = some c → s1.pinsClocksReady c = true) ∧ s1.fault = none ∧
    ∃ t, exec (.initialise 1 9600) s1 = .next t ∧ t.fault = none :=
  ⟨fun c _ => by cases c <;> rfl, rfl, _, rfl, rfl⟩

/-- S-4 and S-6: `ptr + len = 2^32`. -/
theorem witness_SendArmsAnIdleDirection :
    chanOfId 0 = some .ch1 ∧ s1.pinsClocksReady .ch1 = true ∧ s1.fault = none ∧ (s1.chan .ch1).inited = true ∧ (0xFFFFFFFF : Word) ≠ 0 ∧
    (1 : Word).toNat + (0xFFFFFFFF : Word).toNat ≤ 2 ^ 32 ∧ (s1.chan .ch1).txBusy = false := by decide

theorem witness_ReceiveArmsAnIdleDirection :
    chanOfId 0 = some .ch1 ∧ waiting.pinsClocksReady .ch1 = true ∧ waiting.fault = none ∧ (waiting.chan .ch1).inited = true ∧ (1 : Word) ≠ 0 ∧
    (0xFFFFFFFF : Word).toNat + (1 : Word).toNat ≤ 2 ^ 32 ∧ (waiting.chan .ch1).rxBusy = false := by decide

theorem witness_BusyDirectionDropsTheRequest :
    chanOfId 0 = some .ch1 ∧ sa.pinsClocksReady .ch1 = true ∧ (armedRx 4 0 false 0).pinsClocksReady .ch1 = true ∧ sa.fault = none ∧ (sa.chan .ch1).inited = true ∧ (3 : Word) ≠ 0 ∧
    (0x20000100 : Word).toNat + (3 : Word).toNat ≤ 2 ^ 32 ∧ (sa.chan .ch1).txBusy = true ∧
    (armedRx 4 0 false 0).fault = none ∧ ((armedRx 4 0 false 0).chan .ch1).inited = true ∧
    ((armedRx 4 0 false 0).chan .ch1).rxBusy = true := by decide

/-- S-5: `ptr + len = 2^32 + 1`. -/
theorem witness_TransferOperandFaultsInOrder :
    chanOfId 0 = some .ch1 ∧ s1.pinsClocksReady .ch1 = true ∧ s1.fault = none ∧ (s1.chan .ch1).inited = true ∧ (2 : Word) ≠ 0 ∧
    2 ^ 32 < (0xFFFFFFFF : Word).toNat + (2 : Word).toNat := by decide

theorem witness_UnknownChannelIsAConfigurationError :
    2 ≤ (2 : ChanId).toNat ∧ 2 ≤ (255 : ChanId).toNat ∧ s1.fault = none := by decide

theorem witness_UninitialisedChannelFaultsEveryOtherCommand :
    chanOfId 1 = some .ch2 ∧ s1.pinsClocksReady .ch2 = true ∧ s1.fault = none ∧ (s1.chan .ch2).inited = false := by decide

theorem witness_RaisingAFaultWritesOnlyFaultAndHistory :
    let s := { s1 with schedule := [.task], program := [⟨0, 0, 0⟩, ⟨0x02020000, 0x20000000, 1⟩] }
    PinsClocksReady s ∧ s.fault = none ∧ ∃ t, step s = .next t ∧ t.fault = some (.config 2) := ⟨ready_all _ rfl, rfl, _, rfl, rfl⟩

theorem witness_FaultIsStickyAndHaltsTheTask :
    let s := { sa with fault := some (.config 2), schedule := [emitLine] }
    s.fault = some (.config 2) ∧ (∃ t, step s = .next t) ∧
    { s with schedule := [.task] }.schedule = .task :: [] ∧ (Instr.brz 0).context = .task := ⟨rfl, ⟨_, rfl⟩, rfl, rfl⟩

theorem witness_QueryAnswersTheNegatedFlag :
    chanOfId 0 = some .ch1 ∧ sa.pinsClocksReady .ch1 = true ∧ sa.fault = none ∧ (sa.chan .ch1).inited = true := by decide

/-- Q-10: the target is the program's length. -/
theorem witness_BrzBranchesOnZero :
    let s := { s1 with r := some false }
    s.fault = none ∧ s.r = some false ∧ (4 : Word).toNat ≤ s.program.length := by decide

/-- Q-7; and Q-11: the target is one past the program's length. -/
theorem witness_MalformedBrzIsIllegal :
    let s := { s1 with r := some true }
    (s1.fault = none ∧ s1.r = none) ∧ s.fault = none ∧ s.program.length < (5 : Word).toNat := by decide

theorem witness_AbortSendStopsTheTransmit :
    chanOfId 0 = some .ch1 ∧ (armedTx 2 0 true).pinsClocksReady .ch1 = true ∧ (armedTx 2 0 true).fault = none ∧ ((armedTx 2 0 true).chan .ch1).inited = true := by decide

theorem witness_AbortReceiveStopsTheReceive :
    chanOfId 0 = some .ch1 ∧ (armedRx 4 1 true 0x62).pinsClocksReady .ch1 = true ∧ (armedRx 4 1 true 0x62).fault = none ∧
    ((armedRx 4 1 true 0x62).chan .ch1).inited = true := by decide

theorem witness_TxEmitSendsTheByteAtTheCursor :
    chanOfId 0 = some .ch1 ∧ sa.pinsClocksReady .ch1 = true ∧ (sa.chan .ch1).inited = true ∧ (sa.chan .ch1).tx.run = true ∧ (sa.chan .ch1).tc = false ∧
    sa.admitted ((sa.chan .ch1).tx.ptr.toNat + (sa.chan .ch1).tx.cur.toNat) = true := by decide

theorem witness_RxArriveLatchesTheByte :
    chanOfId 0 = some .ch1 ∧ s1.pinsClocksReady .ch1 = true ∧ (s1.chan .ch1).inited = true ∧ (s1.chan .ch1).rxne = false := by decide

theorem witness_RxArriveOverrunLosesOneByte :
    chanOfId 0 = some .ch1 ∧ waiting.pinsClocksReady .ch1 = true ∧ (waiting.chan .ch1).inited = true ∧ (waiting.chan .ch1).rxne = true := by decide

theorem witness_ForcedCompletionClearsItsFlag : chanOfId 0 = some .ch1 ∧ sa.pinsClocksReady .ch1 = true ∧ (sa.chan .ch1).inited = true := by decide

/-- The three clauses: the last byte's event, an earlier one, a spurious one. -/
theorem witness_IrqTCAdvancesTheTransmitCursor :
    let s := armedTx 2 1 true
    let s' := armedTx 2 0 true
    let s'' := { s1 with ch1 := { ready with tc := true } }
    chanOfId 0 = some .ch1 ∧
    (s.pinsClocksReady .ch1 = true ∧ s'.pinsClocksReady .ch1 = true ∧ s''.pinsClocksReady .ch1 = true) ∧
    ((s.chan .ch1).ven = true ∧ (s.chan .ch1).ieTc = true ∧ (s.chan .ch1).tc = true ∧ (s.chan .ch1).tx.run = true ∧
      (s.chan .ch1).tx.cur + 1 = (s.chan .ch1).tx.len) ∧
    ((s'.chan .ch1).ven = true ∧ (s'.chan .ch1).ieTc = true ∧ (s'.chan .ch1).tc = true ∧ (s'.chan .ch1).tx.run = true ∧
      (s'.chan .ch1).tx.cur + 1 ≠ (s'.chan .ch1).tx.len) ∧
    ((s''.chan .ch1).ven = true ∧ (s''.chan .ch1).ieTc = true ∧ (s''.chan .ch1).tc = true ∧
      (s''.chan .ch1).tx.run = false) := by decide

/-- Both clauses: the last byte, an earlier one. -/
theorem witness_IrqRXNEStoresTheReceivedByte :
    let s := armedRx 4 3 true 0x5D
    let s' := armedRx 4 0 true 0x5A
    chanOfId 0 = some .ch1 ∧ s.pinsClocksReady .ch1 = true ∧ s'.pinsClocksReady .ch1 = true ∧
    ((s.chan .ch1).ven = true ∧ (s.chan .ch1).ieRxne = true ∧ (s.chan .ch1).rxne = true ∧ (s.chan .ch1).rx.run = true ∧
      s.admitted ((s.chan .ch1).rx.ptr.toNat + (s.chan .ch1).rx.cur.toNat) = true ∧ s.mem.wf ∧
      (s.chan .ch1).rx.cur + 1 = (s.chan .ch1).rx.len) ∧
    ((s'.chan .ch1).ven = true ∧ (s'.chan .ch1).ieRxne = true ∧ (s'.chan .ch1).rxne = true ∧
      (s'.chan .ch1).rx.run = true ∧
      s'.admitted ((s'.chan .ch1).rx.ptr.toNat + (s'.chan .ch1).rx.cur.toNat) = true ∧ s'.mem.wf ∧
      (s'.chan .ch1).rx.cur + 1 ≠ (s'.chan .ch1).rx.len) := by decide

theorem witness_IrqRXNEDiscardsAnUnsolicitedByte :
    chanOfId 0 = some .ch1 ∧ waiting.pinsClocksReady .ch1 = true ∧ (waiting.chan .ch1).ven = true ∧ (waiting.chan .ch1).ieRxne = true ∧
    (waiting.chan .ch1).rxne = true ∧ (waiting.chan .ch1).rx.run = false := by decide

theorem witness_EventsMoveExactlyWhenEnabled :
    (Instr.rxArrive 1 0).format = .event ∧ (Instr.rxArrive 1 0).channel = some 1 ∧ chanOfId 1 = some .ch2 ∧
    s1.pinsClocksReady .ch2 = true ∧
    (Instr.txEmit 2).format = .event ∧ (Instr.txEmit 2).channel = some 2 ∧ 2 ≤ (2 : ChanId).toNat := by decide

theorem witness_RequestedInterruptCanBeTaken :
    chanOfId 0 = some .ch1 ∧ (armedRx 4 0 true 0x5A).pinsClocksReady .ch1 = true ∧ irqRequest ((armedRx 4 0 true 0x5A).chan .ch1) = true ∧
    ((armedRx 4 0 true 0x5A).chan .ch1).rx.run = true ∧
    (armedRx 4 0 true 0x5A).admitted (((armedRx 4 0 true 0x5A).chan .ch1).rx.ptr.toNat +
      ((armedRx 4 0 true 0x5A).chan .ch1).rx.cur.toNat) = true := by decide

/-- X-9: both sources of one channel. -/
theorem witness_IsrStepsCommute :
    let s := { armedRx 4 0 true 0x5A with
      ch1 := { ready with
        rx := ⟨true, 0x20000010, 4, 0⟩, rxBusy := true, rxne := true, rdr := 0x5A
        tx := ⟨true, 0x20000000, 2, 0⟩, txBusy := true, tc := true } }
    PinsClocksReady s ∧ s.mem.wf ∧ (Instr.irqTC 0).context = .interrupt ∧ (Instr.irqRXNE 0).context = .interrupt ∧
    Instr.irqTC 0 ≠ .irqRXNE 0 ∧ (∀ ch : ChanId, Instr.irqTC 0 ≠ .irqRXNE ch) ∧
    (∃ t, exec (.irqTC 0) s = .next t) ∧ (∃ u, exec (.irqRXNE 0) s = .next u) :=
  ⟨ready_all _ rfl, by decide, rfl, rfl, by decide, fun _ h => (by cases h), ⟨_, rfl⟩, ⟨_, rfl⟩⟩

/-- Two stores, of different channels, to different addresses. -/
theorem witness_IsrStepsCommute_twoStores :
    let s := { armedRx 4 0 true 0x5A with
      ch2 := { ready with rx := ⟨true, 0x20000040, 1, 0⟩, rxBusy := true, rxne := true, rdr := 0x99 } }
    PinsClocksReady s ∧ s.mem.wf ∧ (s.chan .ch1).rx.ptr.toNat + (s.chan .ch1).rx.cur.toNat ≠
      (s.chan .ch2).rx.ptr.toNat + (s.chan .ch2).rx.cur.toNat ∧
    (∃ t, exec (.irqRXNE 0) s = .next t) ∧ (∃ u, exec (.irqRXNE 1) s = .next u) :=
  ⟨ready_all _ rfl, by decide, by decide, ⟨_, rfl⟩, ⟨_, rfl⟩⟩

theorem witness_StepKeepsTheInvariant :
    let s := { armedTx 1 0 false with schedule := [emitLine] }
    StateInv s ∧ ∃ t, step s = .next t := ⟨inv_armedTx false _, _, rfl⟩

/-- Before the event of the last byte: one byte out, the cursor at 0, the event pending. -/
theorem witness_StepKeepsTheLineAccount :
    let s := { armedTx 1 0 true with
      hist := [.arm .ch1 .tx 0x20000000 1, .txByte .ch1 0x41], schedule := [irqTCLine] }
    s.pinsClocksReady .ch1 = true ∧ StateInv s ∧
    (∃ t, step s = .next t ∧ BufferKept (s.chan .ch1).tx s t) ∧ LineCounted s ∧ LineIsBuffer .ch1 s := by
  refine ⟨rfl, inv_of _ ((inv_armedTx true []).chans .ch1 rfl) chanOk_reset (by show Memory.wf s1.mem; decide)
    (by show 2 ≤ s1.program.length; decide), ⟨_, rfl, fun _ _ => rfl⟩, ?_, fun _ => by decide⟩
  intro c
  cases c
  · exact fun _ _ => by decide
  · exact fun _ h => by cases h

theorem witness_StepOfOneChannelIgnoresTheOther :
    (Instr.send 0 0x20000000 2).channel = some 0 ∧ chanOfId 0 = some .ch1 ∧ s1.pinsClocksReady .ch1 = true ∧
    faulted.pinsClocksReady .ch1 = true ∧ Chan.ch2 ≠ .ch1 ∧
    (∃ t, exec (.send 0 0x20000000 2) s1 = .next t) ∧
    exec (.send 0 0x20000000 2) faulted = .fault .taskHalted ∧
    exec (.irqTC 0) s1 = .refused .eventNotEnabled := ⟨rfl, rfl, rfl, rfl, by decide, ⟨_, rfl⟩, rfl, rfl⟩

theorem witness_DirectionsAreIndependent :
    (∀ c, chanOfId 0 = some c → (armedRx 4 0 true 0x5A).pinsClocksReady c = true) ∧
    (∃ t, exec (.send 0 0x20000000 2) (armedRx 4 0 true 0x5A) = .next t) ∧
    (∃ t, exec (.irqRXNE 0) (armedRx 4 0 true 0x5A) = .next t) :=
  ⟨fun c _ => by cases c <;> rfl, ⟨_, rfl⟩, ⟨_, rfl⟩⟩

theorem witness_InitialisationIsPermanent :
    let s := { sa with schedule := [.task], program := [⟨0, 0, 0⟩, ⟨0, 0, 0⟩, ⟨0x06000000, 0, 0⟩] }
    s.pinsClocksReady .ch1 = true ∧ (∃ t, step s = .next t) ∧ (s.chan .ch1).inited = true ∧ (s.chan .ch1).ieRxne = true ∧ (s.chan .ch1).ieTc = true ∧
    (s.chan .ch1).ven = true := ⟨rfl, ⟨_, rfl⟩, rfl, rfl, rfl, rfl⟩

theorem witness_OnlyArmingSetsAFlag :
    let s := { s1 with schedule := [.task], program := [⟨0, 0, 0⟩, ⟨0x02000000, 0x20000000, 2⟩] }
    let s' := { s1 with schedule := [.task], program := [⟨0, 0, 0⟩, ⟨0x03000000, 0x20000000, 2⟩] }
    s.pinsClocksReady .ch1 = true ∧ s'.pinsClocksReady .ch1 = true ∧
    (∃ t, step s = .next t ∧ (s.chan .ch1).busy .tx = false ∧ (t.chan .ch1).busy .tx = true) ∧
    (∃ t, step s' = .next t ∧ (s'.chan .ch1).busy .rx = false ∧ (t.chan .ch1).busy .rx = true) :=
  ⟨rfl, rfl, ⟨_, rfl, rfl, rfl⟩, ⟨_, rfl, rfl, rfl⟩⟩

theorem witness_OnlyItsOwnStepsClearAFlag :
    let s := { armedTx 1 0 true with schedule := [irqTCLine] }
    let s' := { armedRx 1 0 true 0x5A with schedule := [irqRXNELine] }
    s.pinsClocksReady .ch1 = true ∧ s'.pinsClocksReady .ch1 = true ∧
    (∃ t, step s = .next t ∧ (s.chan .ch1).busy .tx = true ∧ (t.chan .ch1).busy .tx = false) ∧
    (∃ t, step s' = .next t ∧ (s'.chan .ch1).busy .rx = true ∧ (t.chan .ch1).busy .rx = false) :=
  ⟨rfl, rfl, ⟨_, rfl, rfl, rfl⟩, ⟨_, rfl, rfl, rfl⟩⟩

theorem witness_OnlyReceiveStoresChangeMemory :
    let s := { armedRx 1 0 true 0x5A with schedule := [irqRXNELine] }
    let s' := { s1 with schedule := [.write 0xFFFFFFFF 1] }
    PinsClocksReady s ∧ PinsClocksReady s' ∧
    (∃ t, step s = .next t ∧ t.mem.read 0x20000010 ≠ s.mem.read 0x20000010) ∧
    (∃ t, step s' = .next t ∧ t.mem.read 0xFFFFFFFF ≠ s'.mem.read 0xFFFFFFFF) :=
  ⟨ready_all _ rfl, ready_all _ rfl, ⟨_, rfl, by decide⟩, ⟨_, rfl, by decide⟩⟩

theorem witness_MemoryReadsWhatWasWritten : s1.mem.wf ∧ 0xFFFFFFFF < 2 ^ 32 := by decide

theorem witness_EqualReadsMeanEqualMemories :
    Memory.wf (Memory.write s1.mem 5 0) ∧ s1.mem.wf ∧ (∀ a, (Memory.write s1.mem 5 0).read a = s1.mem.read a) :=
  ⟨by decide, by decide, fun _ => rfl⟩

theorem witness_ProgramAndLaunchNeverChange : ∃ t, step { sa with schedule := [emitLine] } = .next t := ⟨_, rfl⟩

theorem witness_GhostStateOnlyGrows :
    let s := { sa with schedule := [emitLine], ch1 := { sa.ch1 with ovr := true } }
    s.pinsClocksReady .ch1 = true ∧ (∃ t, step s = .next t) ∧ (s.chan .ch1).ovr = true := ⟨rfl, ⟨_, rfl⟩, rfl⟩

theorem witness_UninitialisedChannelHasNoEvent :
    StateInv s1 ∧ (Instr.irqRXNE 1).format = .event ∧ (Instr.irqRXNE 1).channel = some 1 ∧ chanOfId 1 = some .ch2 ∧
    s1.pinsClocksReady .ch2 = true ∧ (s1.chan .ch2).inited = false := ⟨inv_s1, rfl, rfl, rfl, rfl, rfl⟩

/-- The two sides of the boundary: the last statement, and the end of the program, without and with a fault. -/
theorem witness_TaskLineMovesExactlyWhileUnfinished :
    let s := { s1 with tpc := 3, schedule := [.task] }
    let s' := { s1 with tpc := 4, schedule := [.task] }
    let s'' := { faulted with tpc := 4, schedule := [.task] }
    (s.schedule = .task :: [] ∧ PinsClocksReady s ∧ s.fault = none ∧ s.tpc < s.program.length) ∧
    (s'.schedule = .task :: [] ∧ PinsClocksReady s' ∧ s'.fault = none ∧ s'.program.length ≤ s'.tpc) ∧
    s''.schedule = .task :: [] ∧ s''.program.length ≤ s''.tpc :=
  ⟨⟨rfl, ready_all _ rfl, by decide⟩, ⟨rfl, ready_all _ rfl, by decide⟩, by decide⟩

theorem witness_FinalStateMovesOnlyOnInput :
    let s := { s1 with tpc := 4 }
    PinsClocksReady s ∧ Final s ∧ ∃ t, move (arriveLine 0x5A) s = .next t :=
  ⟨ready_all _ rfl, ⟨rfl, rfl, fun c => by cases c <;> exact ⟨rfl, rfl⟩⟩, _, rfl⟩

/-- The forced completions on a halted machine too (R142). -/
theorem witness_AbortAndCompletionAreIdempotent :
    chanOfId 0 = some .ch1 ∧ sa.pinsClocksReady .ch1 = true ∧ (armedRx 4 1 true 0x62).pinsClocksReady .ch1 = true ∧
    (∃ t, exec (.abortSend 0) sa = .next t ∧ t.fault = sa.fault) ∧
    (∃ t, exec (.abortReceive 0) (armedRx 4 1 true 0x62) = .next t ∧ t.fault = (armedRx 4 1 true 0x62).fault) ∧
    (∃ t, exec (.forceTxCplt 0) faulted = .next t ∧ t.fault = faulted.fault) ∧
    (∃ t, exec (.forceRxCplt 0) faulted = .next t ∧ t.fault = faulted.fault) ∧ faulted.pinsClocksReady .ch1 = true :=
  ⟨rfl, rfl, rfl, ⟨_, rfl, rfl⟩, ⟨_, rfl, rfl⟩, ⟨_, rfl, rfl⟩, ⟨_, rfl, rfl⟩, rfl⟩

/-- One byte sent: `TxEmit` in the run, `IrqTC` the last step. -/
theorem witness_CompletedSendPutTheBufferOnTheLine :
    let s := { armedTx 1 0 false with schedule := [emitLine, irqTCLine] }
    let e : Engine := ⟨true, 0x20000000, 1, 0⟩
    ∃ t u, s.pinsClocksReady .ch1 = true ∧ StateInv s ∧ (s.chan .ch1).tx = e ∧ e.run = true ∧ e.cur = 0 ∧ (s.chan .ch1).tc = false ∧
      Run (fun a b => BufferKept e a b ∧ (b.chan .ch1).txBusy = true ∧
        cancelcount .ch1 .tx b.hist = cancelcount .ch1 .tx a.hist) s t ∧
      ProperStep t u ∧ cancelcount .ch1 .tx u.hist = cancelcount .ch1 .tx t.hist ∧ (u.chan .ch1).txBusy = false :=
  ⟨_, _, rfl, inv_armedTx false _, rfl, rfl, rfl, rfl,
    .more (.refl _) (proper_of (i := .txEmit 0) rfl rfl (fun _ => ⟨by simp, by simp⟩)) ⟨fun _ _ => rfl, rfl, rfl⟩,
    proper_of (i := .irqTC 0) rfl rfl (fun _ => ⟨by simp, by simp⟩), rfl, rfl⟩

/-- One byte received: it arrives in the run, `IrqRXNE` is the last step. -/
theorem witness_CompletedReceiveStoredTheArrivals :
    let s := { armedRx 1 0 false 0 with schedule := [arriveLine 0x5A, irqRXNELine] }
    let e : Engine := ⟨true, 0x20000010, 1, 0⟩
    ∃ t u, s.pinsClocksReady .ch1 = true ∧ StateInv s ∧ (s.chan .ch1).rx = e ∧ e.run = true ∧ e.cur = 0 ∧
      Run (fun a b => (b.chan .ch1).rxBusy = true ∧ (b.chan .ch1).ovr = false ∧
        cancelcount .ch1 .rx b.hist = cancelcount .ch1 .rx a.hist) s t ∧
      ProperStep t u ∧ (u.chan .ch1).ovr = false ∧ cancelcount .ch1 .rx u.hist = cancelcount .ch1 .rx t.hist ∧
      (u.chan .ch1).rxBusy = false :=
  ⟨_, _, rfl, inv_armedRx false 0 _, rfl, rfl, rfl,
    .more (.refl _) (proper_of (i := .rxArrive 0 0x5A) rfl rfl (fun _ => ⟨by simp, by simp⟩)) ⟨rfl, rfl, rfl⟩,
    proper_of (i := .irqRXNE 0) rfl rfl (fun _ => ⟨by simp, by simp⟩), rfl, rfl, rfl⟩

/-- The same with a byte pending at the arming and none arriving after it: `IrqRXNE` is the only step. -/
theorem witness_CompletedReceiveStoredTheArrivals_pending :
    let s := { armedRx 1 0 true 0x58 with schedule := [irqRXNELine] }
    let e : Engine := ⟨true, 0x20000010, 1, 0⟩
    ∃ u, s.pinsClocksReady .ch1 = true ∧ StateInv s ∧ (s.chan .ch1).rxne = true ∧ (s.chan .ch1).rx = e ∧ e.run = true ∧
      e.cur = 0 ∧
      Run (fun a b => (b.chan .ch1).rxBusy = true ∧ (b.chan .ch1).ovr = false ∧
        cancelcount .ch1 .rx b.hist = cancelcount .ch1 .rx a.hist) s s ∧
      ProperStep s u ∧ (u.chan .ch1).ovr = false ∧ cancelcount .ch1 .rx u.hist = cancelcount .ch1 .rx s.hist ∧
      (u.chan .ch1).rxBusy = false :=
  ⟨_, rfl, inv_armedRx true 0x58 _, rfl, rfl, rfl, rfl, .refl _,
    proper_of (i := .irqRXNE 0) rfl rfl (fun _ => ⟨by simp, by simp⟩), rfl, rfl, rfl⟩

theorem witness_CompletedReceiveLeftTheBytesInTheBuffer :
    let s := { armedRx 1 0 false 0 with schedule := [arriveLine 0x5A, irqRXNELine] }
    let e : Engine := ⟨true, 0x20000010, 1, 0⟩
    ∃ t u, s.pinsClocksReady .ch1 = true ∧ StateInv s ∧ (s.chan .ch1).rx = e ∧ e.run = true ∧ e.cur = 0 ∧
      Run (fun a b => (b.chan .ch1).rxBusy = true ∧ cancelcount .ch1 .rx b.hist = cancelcount .ch1 .rx a.hist ∧
        ((∃ ch, nextInstr a = some (.irqRXNE ch) ∧ chanOfId ch = some .ch1) ∨ BufferKept e a b)) s t ∧
      ProperStep t u ∧ cancelcount .ch1 .rx u.hist = cancelcount .ch1 .rx t.hist ∧ (u.chan .ch1).rxBusy = false :=
  ⟨_, _, rfl, inv_armedRx false 0 _, rfl, rfl, rfl,
    .more (.refl _) (proper_of (i := .rxArrive 0 0x5A) rfl rfl (fun _ => ⟨by simp, by simp⟩))
      ⟨rfl, rfl, .inr (fun _ _ => rfl)⟩,
    proper_of (i := .irqRXNE 0) rfl rfl (fun _ => ⟨by simp, by simp⟩), rfl, rfl⟩

/-- An endless fair run: the byte goes out, its event is handled, and then the outside writes a 0 at address 0 for ever. -/
def endlessLine (n : Nat) : Line :=
  match n with
  | 0 => emitLine
  | 1 => irqTCLine
  | _ + 2 => .write 0 0

/-- Its states. -/
def endlessState (n : Nat) : State :=
  match n with
  | 0 => armedTx 1 0 false
  | 1 => { armedTx 1 0 true with
      ch1 := { (armedTx 1 0 true).ch1 with txLine := [0x41] }, hist := [.init .ch1 115200, .txByte .ch1 0x41] }
  | _ + 2 => { s1 with
      ch1 := { ready with tx := ⟨false, 0x20000000, 1, 1⟩, txLine := [0x41] }, tpc := 2
      hist := [.init .ch1 115200, .txByte .ch1 0x41, .irq .ch1 .tc, .cplt .ch1 .tx] }

theorem notForced_of {p : Packet} {i : Instr} (h : decodeEvent p = .ok i)
    (hn : ∀ ch, i ≠ .forceTxCplt ch ∧ i ≠ .forceRxCplt ch) : ¬ LineForced (.event p) := by
  rintro ⟨ch, ⟨q, hq, hd⟩ | ⟨q, hq, hd⟩⟩ <;> cases hq <;> rw [h] at hd <;> cases hd
  · exact (hn ch).1 rfl
  · exact (hn ch).2 rfl

theorem witness_FairTransmitEnds :
    Endless endlessLine endlessState ∧ FairTransmit .ch1 endlessLine endlessState ∧
    (endlessState 0).pinsClocksReady .ch1 = true ∧ StateInv (endlessState 0) ∧
    ((endlessState 0).chan .ch1).tx.run = true ∧
    (∀ i, i < ((endlessState 0).chan .ch1).tx.len.toNat →
      (endlessState 0).admitted (((endlessState 0).chan .ch1).tx.ptr.toNat + i) = true) := by
  refine ⟨⟨fun n => ?_, fun n => ?_⟩, ⟨fun n h => ?_, fun n h => ?_⟩, rfl, inv_armedTx false [], rfl, ?_⟩
  · match n with
    | 0 => rfl
    | 1 => rfl
    | _ + 2 => rfl
  · match n with
    | 0 => exact notForced_of (i := .txEmit 0) rfl (fun _ => ⟨by simp, by simp⟩)
    | 1 => exact notForced_of (i := .irqTC 0) rfl (fun _ => ⟨by simp, by simp⟩)
    | _ + 2 => rintro ⟨ch, ⟨q, hq, -⟩ | ⟨q, hq, -⟩⟩ <;> cases hq
  · have := h (n + 2) (by omega); cases this
  · have := h (n + 2) (by omega); cases this
  · intro i hi
    have h0 : i = 0 := by
      have : ((endlessState 0).chan .ch1).tx.len.toNat = 1 := rfl
      omega
    rw [h0]
    rfl

/-- A second endless run: one byte arrives and is stored, and then bytes arrive and are discarded for ever. -/
def listeningLine (n : Nat) : Line := if n % 2 = 0 then arriveLine 0x5A else irqRXNELine

/-- Channel 1 after its one-byte receive, with a byte waiting or not, and a history. -/
def listening (rxne : Bool) (h : List Event) : State :=
  { s1 with
    ch1 := { ready with rx := ⟨false, 0x20000010, 1, 1⟩, rdr := 0x5A, rxne := rxne }
    mem := s1.mem.write 0x20000010 0x5A, hist := h }

/-- The history when the receive has completed and `k` more lines have run. -/
def listeningHist (k : Nat) : List Event :=
  match k with
  | 0 => [.init .ch1 115200, .rxArrive .ch1 0x5A, .irq .ch1 .rxne, .rxStore .ch1 0x20000010 0x5A, .cplt .ch1 .rx]
  | k + 1 =>
    if k % 2 = 0 then listeningHist k ++ [.rxArrive .ch1 0x5A]
    else (listeningHist k ++ [.irq .ch1 .rxne]) ++ [.rxDiscard .ch1 0x5A]

/-- The states of the run. -/
def listeningState (n : Nat) : State :=
  match n with
  | 0 => armedRx 1 0 false 0
  | 1 => { armedRx 1 0 true 0x5A with hist := [.init .ch1 115200, .rxArrive .ch1 0x5A] }
  | k + 2 => listening (k % 2 == 1) (listeningHist k)

theorem listening_moves (n : Nat) : move (listeningLine n) (listeningState n) = .next (listeningState (n + 1)) := by
  match n with
  | 0 => rfl
  | 1 => rfl
  | k + 2 =>
    rcases Nat.mod_two_eq_zero_or_one k with h | h
    · have h1 : (k + 1) % 2 = 1 := by omega
      have h2 : (k + 2) % 2 = 0 := by omega
      simp only [listeningLine, listeningState, listeningHist, h, h1, h2, if_true]
      rfl
    · have h1 : (k + 1) % 2 = 0 := by omega
      have h2 : (k + 2) % 2 = 1 := by omega
      simp only [listeningLine, listeningState, listeningHist, h, h1, h2]
      rfl

theorem listening_fair : Fair listeningLine listeningState := by
  intro c
  refine ⟨⟨fun n h => ?_, fun n h => ?_⟩, ⟨fun n h => ?_⟩⟩
  · have := h (n + 2) (by omega)
    cases c <;> cases this
  · have := h (n + 2) (by omega)
    cases c <;> cases this
  · cases c with
    | ch1 => exact ⟨2 * n + 1, by omega, ⟨0x13000000, 0, 0⟩, by unfold listeningLine; rw [if_neg (by omega)]; rfl, rfl⟩
    | ch2 => have := h (n + 2) (by omega); cases this

theorem witness_FairReceiveEndsIfBytesKeepArriving :
    Endless listeningLine listeningState ∧ Fair listeningLine listeningState ∧
    (listeningState 0).pinsClocksReady .ch1 = true ∧ StateInv (listeningState 0) ∧
    ((listeningState 0).chan .ch1).rx.run = true ∧
    (∀ i, i < ((listeningState 0).chan .ch1).rx.len.toNat →
      (listeningState 0).admitted (((listeningState 0).chan .ch1).rx.ptr.toNat + i) = true) ∧
    (∀ n, ∃ m b, n ≤ m ∧ LineRuns (listeningLine m) (.rxArrive (idOfChan .ch1) b)) := by
  refine ⟨⟨listening_moves, fun n => ?_⟩, listening_fair, rfl, inv_armedRx false 0 [], rfl, fun i hi => ?_, fun n => ?_⟩
  · unfold listeningLine
    split
    · exact notForced_of (i := .rxArrive 0 0x5A) rfl (fun _ => ⟨by simp, by simp⟩)
    · exact notForced_of (i := .irqRXNE 0) rfl (fun _ => ⟨by simp, by simp⟩)
  · have h1 : ((listeningState 0).chan .ch1).rx.len.toNat = 1 := rfl
    have h0 : i = 0 := by omega
    rw [h0]
    rfl
  · exact ⟨2 * n, 0x5A, by omega, ⟨0x11000000, 0x5A, 0⟩, by unfold listeningLine; rw [if_pos (by omega)]; rfl, rfl⟩

theorem witness_ArmedTransmitCanBeRunToItsEnd :
    let s := { armedTx 1 0 false with schedule := [emitLine, irqTCLine] }
    s.pinsClocksReady .ch1 = true ∧ StateInv s ∧ (s.chan .ch1).tx.run = true ∧ (s.chan .ch1).tc = false ∧
    (s.chan .ch1).tx.cur.toNat + 1 = (s.chan .ch1).tx.len.toNat ∧
    (∀ i, i < (s.chan .ch1).tx.len.toNat → s.admitted ((s.chan .ch1).tx.ptr.toNat + i) = true) ∧
    s.schedule = (List.replicate 1 [Line.event (encode (.txEmit (idOfChan .ch1))),
      Line.event (encode (.irqTC (idOfChan .ch1)))]).flatten ++ [] :=
  ⟨rfl, inv_armedTx false _, rfl, rfl, rfl, by decide, by decide⟩

end Sys2Proof.Tests
end

section
/-! The scope's statement about which move comes next (00_scope.md R9). -/

namespace Sys2Proof.Safety

open Sys2Proof.Machine

/-- With a line listed next, the step is that line's move from the state as it was before the listing (R9, R91). -/
theorem step_listNext (s : State) (l : Line) : step { s with schedule := l :: s.schedule } = move l s :=
  step_cons rfl

/-- Settles O9: listing the line next makes its move the step. -/
theorem anyEnabledMoveMayBeNext : Obligations.AnyEnabledMoveMayBeNext := by
  intro s t l hmove
  rw [step_listNext, hmove]

end Sys2Proof.Safety
end

section
/-! SUPPORT. What a step leaves unchanged in each element of the state (10_state.md): one lemma per element, over the
cases of `Effect` once and over the cases of a step once. -/

namespace Sys2Proof.Machine

open Sys2Proof.Safety

/-! Which terms the task agent runs, and how (R44, R45, R110). -/

/-- Every term of the task agent runs in the one frame that a fault closes for ever (R110, R161). -/
theorem exec_eq_taskStep {i : Instr} (h : i.context = .task) : ∃ body, ∀ s, exec i s = taskStep body s := by
  cases i with
  | initialise | send | receive | isSendComplete | isReceiveComplete | abortSend | abortReceive | brz =>
    exact ⟨_, fun _ => rfl⟩
  | txEmit | rxArrive | irqTC | irqRXNE | forceTxCplt | forceRxCplt => cases h

theorem context_of_isStatement {i : Instr} (h : i.isStatement = true) : i.context = .task := by
  cases i with
  | initialise | send | receive | isSendComplete | isReceiveComplete | abortSend | abortReceive | brz => rfl
  | txEmit | rxArrive | irqTC | irqRXNE | forceTxCplt | forceRxCplt => cases h

/-! A task line (R45, R91): what it answers in each of its cases. -/

theorem move_task_of_fault {s : State} {f : FaultInfo} (h : s.fault = some f) : move .task s = .fault .taskHalted := by
  simp [move, fetchLine, fetchStatement, h]

theorem move_task_of_finished {s : State} (hf : s.fault = none) (h : s.program.length ≤ s.tpc) :
    move .task s = .refused .taskFinished := by
  simp [move, fetchLine, fetchStatement, hf, List.getElem?_eq_none h]

theorem move_task_of_decoded {s : State} {p : Packet} {i : Instr} (hf : s.fault = none)
    (hp : s.program[s.tpc]? = some p) (hd : decodeStatement p = .ok i) : move .task s = exec i s := by
  simp [move, fetchLine, fetchStatement, hf, hp, hd]

theorem move_task_of_rejected {s : State} {p : Packet} {e : Reject} (hf : s.fault = none)
    (hp : s.program[s.tpc]? = some p) (hd : decodeStatement p = .error e) :
    move .task s = .next (raise (.illegal p.w0) s) := by
  simp [move, fetchLine, fetchStatement, hf, hp, hd]

/-- Without fault and with a statement left, a task line moves: the statement runs, or its packet is illegal. -/
theorem move_task_of_unfinished {s : State} (hf : s.fault = none) (h : s.tpc < s.program.length) :
    ∃ t, move .task s = .next t := by
  have hp := List.getElem?_eq_getElem h
  cases hd : decodeStatement s.program[s.tpc] with
  | error e => exact ⟨_, move_task_of_rejected hf hp hd⟩
  | ok i =>
    obtain ⟨body, hb⟩ := exec_eq_taskStep (context_of_isStatement (decodeOn_ok_iff.1 hd).2)
    exact ⟨_, by rw [move_task_of_decoded hf hp hd, hb, taskStep_of_none hf]⟩

/-! The form `State.put`, slot by slot. -/

section
variable {s : State} {c : Chan} {x : ChanState} {m : Memory} {tpc : Nat} {r : Option Bool} {es : List Event} {n : Nat}

/-- A reflexive relation that the replaced slot meets is met by every slot. -/
theorem State.put_chan_rel {R : ChanState → ChanState → Prop} (hx : R (s.chan c) x) (hrefl : ∀ y, R y y) (c' : Chan) :
    R (s.chan c') ((s.put c x m tpc r es n).chan c') := by
  rw [State.put_chan]
  split
  · next h => rw [h]; exact hx
  · exact hrefl _

/-- A flag that differs is one of the replaced slot, and differs there. -/
theorem State.put_busy_ne {c' : Chan} {d : Dir}
    (h : ((s.put c x m tpc r es n).chan c').busy d ≠ (s.chan c').busy d) : c' = c ∧ x.busy d ≠ (s.chan c).busy d := by
  rw [State.put_chan] at h
  split at h
  · next hc => exact ⟨hc, hc ▸ h⟩
  · exact absurd rfl h

theorem State.put_busy_ne_tx {c' : Chan} {d : Dir}
    (h : ((s.put c x m tpc r es n).chan c').busy d ≠ (s.chan c').busy d) (hx : x.rxBusy = (s.chan c).rxBusy) :
    c' = c ∧ d = .tx := by
  obtain ⟨hc, hd⟩ := State.put_busy_ne h
  cases d with
  | tx => exact ⟨hc, rfl⟩
  | rx => exact absurd hx hd

theorem State.put_busy_ne_rx {c' : Chan} {d : Dir}
    (h : ((s.put c x m tpc r es n).chan c').busy d ≠ (s.chan c').busy d) (hx : x.txBusy = (s.chan c).txBusy) :
    c' = c ∧ d = .rx := by
  obtain ⟨hc, hd⟩ := State.put_busy_ne h
  cases d with
  | tx => exact absurd hx hd
  | rx => exact ⟨hc, rfl⟩

theorem State.put_sameElsewhere : SameElsewhere c s (s.put c x s.mem tpc r es n) :=
  ⟨fun _ h => State.put_chan_other _ _ _ _ _ _ _ _ _ h, fun _ => by rw [State.put_mem],
    State.put_program .., State.put_schedule .., State.put_launch ..⟩

theorem State.put_taskSame : TaskSame s (s.put c x m s.tpc s.r es n) :=
  ⟨State.put_tpc .., State.put_r .., State.put_fault ..⟩

end

/-! One lemma per element over the cases of `Effect`. -/

/-- Under a fault an instruction that still answers is an event, which writes nothing of the task agent's (R54, R142). -/
theorem Effect.taskSame {s t : State} {i : Instr} {f : FaultInfo} (he : Effect s i t) (h : s.fault = some f) :
    TaskSame s t := by
  cases he with
  | emitted | arrived | overran | txForced | rxForced | txAdvanced | txCompleted | txSpurious | rxStored | rxCompleted
  | rxDiscarded => exact State.put_taskSame
  | _ => exact absurd (h.symm.trans ‹s.fault = none›) (Option.some_ne_none f)

/-- No instruction writes the program, the schedule or the launch parameters (R44, R54). -/
theorem Effect.launchSame {s t : State} {i : Instr} (he : Effect s i t) : LaunchSame s t := by
  cases he with
  | faulted | branched => exact ⟨rfl, rfl, rfl⟩
  | _ => exact ⟨State.put_program .., State.put_schedule .., State.put_launch ..⟩

/-- `HIST` only grows (R47). -/
theorem Effect.hist_grows {s t : State} {i : Instr} (he : Effect s i t) : ∃ es, t.hist = s.hist ++ es := by
  cases he with
  | faulted i f => exact ⟨[.fault f.kind], rfl⟩
  | branched => exact ⟨[], by simp⟩
  | _ => exact ⟨_, State.put_hist ..⟩

/-- An instruction that changes a byte of memory is the store of an engaged receive, at the cursor (R63, R68, R175). -/
theorem Effect.mem_changed {s t : State} {i : Instr} {a : Nat} (he : Effect s i t)
    (h : t.mem.read a ≠ s.mem.read a) :
    ∃ ch c, i = .irqRXNE ch ∧ chanOfId ch = some c ∧ (s.chan c).rx.run = true ∧ a = (s.chan c).rx.address ∧
      s.admitted a = true := by
  have written {b : Nat} {v : Byte} (hb : (s.mem.write b v).read a ≠ s.mem.read a) : a = b :=
    Decidable.not_not.1 fun hab => hb (Memory.read_write_other s.mem v hab)
  cases he with
  | rxStored ch c hc _ _ _ hr ha _ | rxCompleted ch c hc _ _ _ hr ha _ =>
    rw [State.put_mem] at h
    obtain rfl := written h
    exact ⟨ch, c, rfl, hc, hr, rfl, ha⟩
  | faulted | branched => exact absurd rfl h
  | _ => rw [State.put_mem] at h; exact absurd rfl h

/-- The term that arms a direction (R110, R116). -/
def armingOf (d : Dir) (ch : ChanId) (ptr len : Word) : Instr :=
  match d with
  | .tx => .send ch ptr len
  | .rx => .receive ch ptr len

/-- The term that aborts a direction (R130, R131). -/
def abortOf (d : Dir) (ch : ChanId) : Instr :=
  match d with
  | .tx => .abortSend ch
  | .rx => .abortReceive ch

/-- The interrupt step that serves a direction (R174, R175). -/
def isrStepOf (d : Dir) (ch : ChanId) : Instr :=
  match d with
  | .tx => .irqTC ch
  | .rx => .irqRXNE ch

/-- The forced completion of a direction (R139, R140). -/
def forcedOf (d : Dir) (ch : ChanId) : Instr :=
  match d with
  | .tx => .forceTxCplt ch
  | .rx => .forceRxCplt ch

/-- What clears a flag of `(c, d)`: `initialise`, an abort, or a completion, whose callback is logged last (R30, R159). -/
def ClearsFlag (s t : State) (i : Instr) (ch : ChanId) (c : Chan) (d : Dir) : Prop :=
  (∃ baud, i = .initialise ch baud) ∨
    (i = abortOf d ch ∧ t.hist = s.hist ++ [.cancel c d]) ∨
    ((i = isrStepOf d ch ∨ i = forcedOf d ch) ∧ t.hist.getLast? = some (.cplt c d))

/-- An instruction that changes a busy flag is one of its channel and direction: the arming, which sets it, or one that
clears it (R30 to R33). -/
theorem Effect.busy_changed {s t : State} {i : Instr} {c : Chan} {d : Dir} (he : Effect s i t)
    (h : (t.chan c).busy d ≠ (s.chan c).busy d) :
    ∃ ch, i.channel = some ch ∧ chanOfId ch = some c ∧
      (((t.chan c).busy d = true ∧ s.fault = none ∧ ∃ ptr len, i = armingOf d ch ptr len) ∨
        ((t.chan c).busy d = false ∧ ClearsFlag s t i ch c d)) := by
  cases he with
  | initialised ch c' baud hc =>
    obtain ⟨rfl, -⟩ := State.put_busy_ne h
    exact ⟨ch, rfl, hc, .inr ⟨by cases d <;> simp [ChanState.initialised], .inl ⟨baud, rfl⟩⟩⟩
  | sendArmed ch c' ptr len hc hf =>
    obtain ⟨rfl, rfl⟩ := State.put_busy_ne_tx h rfl
    exact ⟨ch, rfl, hc, .inl ⟨by simp, hf, ptr, len, rfl⟩⟩
  | receiveArmed ch c' ptr len hc hf =>
    obtain ⟨rfl, rfl⟩ := State.put_busy_ne_rx h rfl
    exact ⟨ch, rfl, hc, .inl ⟨by simp, hf, ptr, len, rfl⟩⟩
  | sendAborted ch c' hc =>
    obtain ⟨rfl, rfl⟩ := State.put_busy_ne_tx h rfl
    exact ⟨ch, rfl, hc, .inr ⟨by simp, .inr (.inl ⟨rfl, State.put_hist ..⟩)⟩⟩
  | receiveAborted ch c' hc =>
    obtain ⟨rfl, rfl⟩ := State.put_busy_ne_rx h rfl
    exact ⟨ch, rfl, hc, .inr ⟨by simp, .inr (.inl ⟨rfl, State.put_hist ..⟩)⟩⟩
  | txCompleted ch c' hc =>
    obtain ⟨rfl, rfl⟩ := State.put_busy_ne_tx h rfl
    exact ⟨ch, rfl, hc, .inr ⟨by simp, .inr (.inr ⟨.inl rfl, by simp⟩)⟩⟩
  | rxCompleted ch c' hc =>
    obtain ⟨rfl, rfl⟩ := State.put_busy_ne_rx h rfl
    exact ⟨ch, rfl, hc, .inr ⟨by simp, .inr (.inr ⟨.inl rfl, by simp⟩)⟩⟩
  | txForced ch c' hc =>
    obtain ⟨rfl, rfl⟩ := State.put_busy_ne_tx h rfl
    exact ⟨ch, rfl, hc, .inr ⟨by simp, .inr (.inr ⟨.inr rfl, by simp⟩)⟩⟩
  | rxForced ch c' hc =>
    obtain ⟨rfl, rfl⟩ := State.put_busy_ne_rx h rfl
    exact ⟨ch, rfl, hc, .inr ⟨by simp, .inr (.inr ⟨.inr rfl, by simp⟩)⟩⟩
  | faulted => exact absurd (by rw [Faulted_chan]) h
  | branched => exact absurd (by rw [State.chan_mk]) h
  | _ => exact absurd (by cases d <;> rfl) (State.put_busy_ne h).2

/-- `TXLINE[c]` gains at most one byte, by the channel's own `TxEmit`, which logs it (R48, R135). -/
theorem Effect.txLine_changed {s t : State} {i : Instr} {c : Chan} (he : Effect s i t)
    (h : (t.chan c).txLine ≠ (s.chan c).txLine) :
    ∃ ch b, i = .txEmit ch ∧ chanOfId ch = some c ∧ (t.chan c).txLine = (s.chan c).txLine ++ [b] ∧
      t.hist = s.hist ++ [.txByte c b] := by
  cases he with
  | emitted ch c' hc =>
    by_cases hcc : c = c'
    · subst hcc
      exact ⟨ch, _, rfl, hc, by rw [State.put_chan_same], State.put_hist ..⟩
    · exact absurd (by rw [State.put_chan_other _ _ _ _ _ _ _ _ _ hcc]) h
  | faulted => exact absurd (by rw [Faulted_chan]) h
  | branched => exact absurd (by rw [State.chan_mk]) h
  | _ => exact (h (State.put_chan_rel (R := fun x y => y.txLine = x.txLine) (by rfl) (fun _ => rfl) c)).elim

/-- No instruction clears `OVR[c]` (R50). -/
theorem Effect.ovr_kept {s t : State} {i : Instr} (he : Effect s i t) (c : Chan) :
    (s.chan c).ovr = true → (t.chan c).ovr = true := by
  cases he with
  | overran => exact State.put_chan_rel (R := fun x y => x.ovr = true → y.ovr = true) (fun _ => rfl) (fun _ => id) c
  | faulted => rw [Faulted_chan]; exact id
  | branched => rw [State.chan_mk]; exact id
  | _ => exact State.put_chan_rel (R := fun x y => x.ovr = true → y.ovr = true) (by exact id) (fun _ => id) c

/-- What initialization of a slot made, later steps keep: the mark, the baud rate, the priority, each enable that is set
(R24, R25, R27, R28). -/
def InitKept (x y : ChanState) : Prop :=
  x.inited = true →
    y.inited = true ∧ y.baud = x.baud ∧ y.prio = x.prio ∧ (x.ieRxne = true → y.ieRxne = true) ∧
      (x.ieTc = true → y.ieTc = true) ∧ (x.ven = true → y.ven = true)

theorem InitKept.refl (x : ChanState) : InitKept x x := fun h => ⟨h, rfl, rfl, id, id, id⟩

/-- No instruction undoes an initialization: `initialise` itself only runs its effect on an uninitialized channel (R191). -/
theorem Effect.initKept {s t : State} {i : Instr} (he : Effect s i t) (c : Chan) : InitKept (s.chan c) (t.chan c) := by
  cases he with
  | initialised ch c' baud _ _ hi =>
    exact State.put_chan_rel (fun h => absurd (hi.symm.trans h) Bool.false_ne_true) InitKept.refl c
  | faulted => rw [Faulted_chan]; exact .refl _
  | branched => rw [State.chan_mk]; exact .refl _
  | _ => exact State.put_chan_rel (fun h => ⟨h, rfl, rfl, id, id, id⟩) InitKept.refl c

/-! The two directions of a channel (R29, R119). -/

/-- The transfer direction a term serves; `initialise` and `brz` serve none. -/
def directionOf : Instr → Option Dir
  | .send _ _ _ | .isSendComplete _ | .abortSend _ | .txEmit _ | .irqTC _ | .forceTxCplt _ => some .tx
  | .receive _ _ _ | .isReceiveComplete _ | .abortReceive _ | .rxArrive _ _ | .irqRXNE _ | .forceRxCplt _ => some .rx
  | .initialise _ _ | .brz _ => none

/-- The elements of a slot's receive direction are the same. -/
def RxSame (x y : ChanState) : Prop :=
  y.rx = x.rx ∧ y.rxBusy = x.rxBusy ∧ y.rxne = x.rxne ∧ y.rdr = x.rdr ∧ y.ovr = x.ovr

theorem RxSame.refl (x : ChanState) : RxSame x x := ⟨rfl, rfl, rfl, rfl, rfl⟩

/-- The elements of a slot's transmit direction are the same. -/
def TxSame (x y : ChanState) : Prop :=
  y.tx = x.tx ∧ y.txBusy = x.txBusy ∧ y.tc = x.tc ∧ y.txLine = x.txLine

theorem TxSame.refl (x : ChanState) : TxSame x x := ⟨rfl, rfl, rfl, rfl⟩

/-- A term of the transmit direction writes no receive element and no byte of memory. -/
theorem Effect.rxSame_of_tx {s t : State} {i : Instr} (he : Effect s i t) (h : directionOf i = some .tx) :
    MemSame s t ∧ ∀ c, RxSame (s.chan c) (t.chan c) := by
  cases he with
  | sendDropped | sendArmed | sendAnswered | sendAborted | emitted | txForced | txAdvanced | txCompleted | txSpurious =>
    exact ⟨fun _ => by rw [State.put_mem], State.put_chan_rel ⟨rfl, rfl, rfl, rfl, rfl⟩ RxSame.refl⟩
  | faulted => exact ⟨fun _ => rfl, fun c => by rw [Faulted_chan]; exact .refl _⟩
  | _ => cases h

/-- A term of the receive direction writes no transmit element. -/
theorem Effect.txSame_of_rx {s t : State} {i : Instr} (he : Effect s i t) (h : directionOf i = some .rx) (c : Chan) :
    TxSame (s.chan c) (t.chan c) := by
  cases he with
  | receiveDropped | receiveArmed | receiveAnswered | receiveAborted | arrived | overran | rxForced | rxStored
  | rxCompleted | rxDiscarded => exact State.put_chan_rel ⟨rfl, rfl, rfl, rfl⟩ TxSame.refl c
  | faulted => rw [Faulted_chan]; exact .refl _
  | _ => cases h

/-- A term of one channel writes no other channel's slot (R40). -/
theorem Effect.chan_other {s t : State} {i : Instr} {ch : ChanId} {c c' : Chan} (he : Effect s i t)
    (hi : i.channel = some ch) (hc : chanOfId ch = some c) (h : c' ≠ c) : t.chan c' = s.chan c' := by
  cases he with
  | faulted => exact Faulted_chan ..
  | branched => cases hi
  | _ =>
    cases hi
    cases hc.symm.trans ‹chanOfId ch = some _›
    exact State.put_chan_other _ _ _ _ _ _ _ _ _ h

/-! One step, element by element. -/

/-- A step leaves a slot as it is, or runs an instruction on the state with the line taken. -/
theorem step_chan_cases {s t : State} (h : step s = .next t) (c : Chan) :
    t.chan c = s.chan c ∨
      ∃ l rest i, s.schedule = l :: rest ∧ nextInstr s = some i ∧ fetchLine l { s with schedule := rest } = .ok i ∧
        Effect { s with schedule := rest } i t := by
  obtain ⟨l, rest, hs, ⟨i, hn, hl, he⟩ | ⟨p, -, -, rfl⟩ | ⟨a, v, -, rfl⟩⟩ := step_effect h
  · exact .inr ⟨l, rest, i, hs, hn, hl, he⟩
  · exact .inl (by simp)
  · exact .inl (by simp)

/-- A step that changes a busy flag runs an instruction of its channel and direction; an arming stands on a task line. -/
theorem step_busy_changed {s t : State} {c : Chan} {d : Dir} (h : step s = .next t)
    (hne : (t.chan c).busy d ≠ (s.chan c).busy d) :
    ∃ i ch, nextInstr s = some i ∧ i.channel = some ch ∧ chanOfId ch = some c ∧
      (((t.chan c).busy d = true ∧ s.fault = none ∧ s.schedule.head? = some .task ∧
          ∃ ptr len, i = armingOf d ch ptr len) ∨
        ((t.chan c).busy d = false ∧ ClearsFlag s t i ch c d)) := by
  obtain hsame | ⟨l, rest, i, hs, hn, hl, he⟩ := step_chan_cases h c
  · exact absurd (by rw [hsame]) hne
  obtain ⟨ch, hi, hc, ⟨hset, hf, ptr, len, rfl⟩ | hclears⟩ :=
    he.busy_changed (by rwa [State.chan_withSchedule s rest])
  · refine ⟨_, ch, hn, hi, hc, .inl ⟨hset, hf, ?_, ptr, len, rfl⟩⟩
    obtain ⟨rfl, -⟩ | ⟨p, -, -, hev⟩ := fetchLine_ok hl
    · rw [hs]; rfl
    · cases d <;> cases hev
  · exact ⟨i, ch, hn, hi, hc, .inr hclears⟩

end Sys2Proof.Machine
end

section
/-! SUPPORT. Replacing another channel's slot commutes with every operation on a channel (R40): one rule per shared
operation, then the two frames, then the instructions. -/

namespace Sys2Proof.Machine

/-- An outcome with the slot of `c` replaced in its next state; a stop stays as it is. -/
def Result.setChan (o : Result) (c : Chan) (x : ChanState) : Result :=
  match o with
  | .next t => .next (t.setChan c x)
  | .fault f => .fault f
  | .refused f => .refused f

/-! Operations on no channel. -/

section
variable (s : State) (c : Chan) (x : ChanState)

theorem State.log_setChan (es : List Event) : (s.setChan c x).log es = (s.log es).setChan c x := by cases c <;> rfl

theorem State.advance_setChan : (s.setChan c x).advance = s.advance.setChan c x := by cases c <;> rfl

theorem State.setR_setChan (r : Option Bool) :
    { s.setChan c x with r := r } = State.setChan { s with r := r } c x := by cases c <;> rfl

theorem State.setDraws_setChan (n : Nat) :
    { s.setChan c x with draws := n } = State.setChan { s with draws := n } c x := by cases c <;> rfl

theorem memWrite_setChan (a : Nat) (v : Byte) : memWrite a v (s.setChan c x) = (memWrite a v s).setChan c x := by
  cases c <;> rfl

theorem memRead_setChan (a : Nat) : memRead (s.setChan c x) a = memRead s a := by cases c <;> rfl

theorem admitted_setChan (a : Nat) : (s.setChan c x).admitted a = s.admitted a := by cases c <;> rfl

theorem baudOK_setChan (baud : Word) : (s.setChan c x).baudOK baud = s.baudOK baud := by cases c <;> rfl

theorem raise_setChan (f : FaultInfo) : raise f (s.setChan c x) = (raise f s).setChan c x := by
  unfold raise
  rw [State.setChan_fault]
  cases s.fault <;> cases c <;> rfl

end

/-! The two frames (R89, R110): a body that ignores the replaced slot makes an instruction that does. -/

section
variable {c : Chan} (s : State) (c' : Chan) (x : ChanState)

theorem taskStep_withChan_setChan {ch : ChanId} (hc : chanOfId ch = some c) {body : Chan → State → State}
    (hb : body c (s.setChan c' x) = (body c s).setChan c' x) :
    taskStep (withChan ch body) (s.setChan c' x) = Result.setChan (taskStep (withChan ch body) s) c' x := by
  unfold taskStep
  rw [State.setChan_fault]
  cases s.fault with
  | some f => rfl
  | none => simp only [withChan_of_some hc, hb, Result.setChan]

theorem eventStep_setChan {ch : ChanId} (hc : chanOfId ch = some c) {enabled : Chan → State → Bool}
    {body : Chan → State → State} (he : enabled c (s.setChan c' x) = enabled c s)
    (hb : body c (s.setChan c' x) = (body c s).setChan c' x) :
    eventStep ch enabled body (s.setChan c' x) = Result.setChan (eventStep ch enabled body s) c' x := by
  cases hen : enabled c s with
  | false => rw [eventStep_of_disabled hc (he.trans hen), eventStep_of_disabled hc hen]; rfl
  | true => rw [eventStep_of_enabled hc (he.trans hen), eventStep_of_enabled hc hen, hb]; rfl

end

/-! Operations on channel `c`, with the slot of `c'` replaced. -/

section
variable {c c' : Chan} (h : c' ≠ c) (s : State) (x : ChanState)
include h

theorem State.setChan_comm (y : ChanState) : (s.setChan c' x).setChan c y = (s.setChan c y).setChan c' x := by
  cases c with
  | ch1 =>
    cases c' with
    | ch1 => exact absurd rfl h
    | ch2 => rfl
  | ch2 =>
    cases c' with
    | ch1 => rfl
    | ch2 => exact absurd rfl h

theorem State.setChan_chan_of_ne : (s.setChan c' x).chan c = s.chan c := State.chan_setChan_other s c' c x (Ne.symm h)

theorem State.setEngine_setChan (d : Dir) (e : Engine) :
    (s.setChan c' x).setEngine c d e = (s.setEngine c d e).setChan c' x := by
  simp only [State.setEngine, State.setChan_chan_of_ne h, State.setChan_comm h]

theorem flagSet_setChan (d : Dir) : flagSet c d (s.setChan c' x) = (flagSet c d s).setChan c' x := by
  simp only [flagSet, State.setChan_chan_of_ne h, State.setChan_comm h]

theorem flagClear_setChan (d : Dir) : flagClear c d (s.setChan c' x) = (flagClear c d s).setChan c' x := by
  simp only [flagClear, State.setChan_chan_of_ne h, State.setChan_comm h]

theorem disengage_setChan (d : Dir) : disengage c d (s.setChan c' x) = (disengage c d s).setChan c' x := by
  simp only [disengage, State.setChan_chan_of_ne h, State.setEngine_setChan h]

theorem clearTC_setChan : clearTC c (s.setChan c' x) = (clearTC c s).setChan c' x := by
  simp only [clearTC, State.setChan_chan_of_ne h, State.setChan_comm h]

theorem clearRXNE_setChan : clearRXNE c (s.setChan c' x) = (clearRXNE c s).setChan c' x := by
  simp only [clearRXNE, State.setChan_chan_of_ne h, State.setChan_comm h]

theorem txCplt_setChan : txCplt c (s.setChan c' x) = (txCplt c s).setChan c' x := by
  simp only [txCplt, channelOfPeripheral, flagClearFromISR, State.setChan_chan_of_ne h, State.setChan_comm h,
    State.log_setChan]

theorem rxCplt_setChan : rxCplt c (s.setChan c' x) = (rxCplt c s).setChan c' x := by
  simp only [rxCplt, channelOfPeripheral, flagClearFromISR, State.setChan_chan_of_ne h, State.setChan_comm h,
    State.log_setChan]

theorem completion_setChan (d : Dir) : completion c d (s.setChan c' x) = (completion c d s).setChan c' x := by
  cases d with
  | tx => exact txCplt_setChan h s x
  | rx => exact rxCplt_setChan h s x

theorem advanceCursor_setChan (d : Dir) : advanceCursor c d (s.setChan c' x) = (advanceCursor c d s).setChan c' x := by
  simp only [advanceCursor, State.setChan_chan_of_ne h, State.setEngine_setChan h, completion_setChan h]
  split <;> rfl

theorem answerQuery_setChan (d : Dir) : answerQuery d c (s.setChan c' x) = (answerQuery d c s).setChan c' x := by
  simp only [answerQuery, State.setChan_chan_of_ne h, State.setR_setChan, State.log_setChan, State.advance_setChan]

theorem startTransfer_setChan (d : Dir) (ptr len : Word) :
    startTransfer d ptr len c (s.setChan c' x) = (startTransfer d ptr len c s).setChan c' x := by
  unfold startTransfer
  cases transferFault c d ptr len with
  | some f => exact raise_setChan s c' x f
  | none =>
    simp only [State.setChan_chan_of_ne h, State.setEngine_setChan h, flagSet_setChan h, State.log_setChan,
      State.advance_setChan]
    split <;> rfl

theorem taskStep_withReadyChan_setChan {ch : ChanId} (hc : chanOfId ch = some c) {body : Chan → State → State}
    (hb : body c (s.setChan c' x) = (body c s).setChan c' x) :
    taskStep (withReadyChan ch body) (s.setChan c' x) = Result.setChan (taskStep (withReadyChan ch body) s) c' x := by
  refine taskStep_withChan_setChan s c' x hc ?_
  simp only [State.setChan_chan_of_ne h, hb, raise_setChan]
  split <;> rfl

/-- An instruction of channel `c` reads nothing of another channel's slot. -/
theorem exec_setChan {i : Instr} {ch : ChanId} (hi : i.channel = some ch) (hc : chanOfId ch = some c) :
    exec i (s.setChan c' x) = Result.setChan (exec i s) c' x := by
  cases i <;> cases hi
  case initialise baud =>
    refine taskStep_withChan_setChan s c' x hc ?_
    simp only [State.setChan_chan_of_ne h, State.setChan_comm h, baudOK_setChan, raise_setChan, State.log_setChan,
      State.advance_setChan]
    split
    · rfl
    · split <;> rfl
  case send ptr len => exact taskStep_withReadyChan_setChan h s x hc (startTransfer_setChan h s x .tx ptr len)
  case receive ptr len => exact taskStep_withReadyChan_setChan h s x hc (startTransfer_setChan h s x .rx ptr len)
  case isSendComplete => exact taskStep_withReadyChan_setChan h s x hc (answerQuery_setChan h s x .tx)
  case isReceiveComplete => exact taskStep_withReadyChan_setChan h s x hc (answerQuery_setChan h s x .rx)
  case abortSend =>
    refine taskStep_withReadyChan_setChan h s x hc ?_
    simp only [State.log_setChan, disengage_setChan h, clearTC_setChan h, flagClear_setChan h, State.advance_setChan]
  case abortReceive =>
    refine taskStep_withReadyChan_setChan h s x hc ?_
    simp only [State.log_setChan, disengage_setChan h, flagClear_setChan h, State.advance_setChan]
  case txEmit =>
    simp only [exec, execTxEmit]
    refine eventStep_setChan s c' x hc ?_ ?_
    · simp only [txEmitEnabled, State.setChan_chan_of_ne h, admitted_setChan]
    · simp only [State.setChan_chan_of_ne h, State.setChan_comm h, memRead_setChan, State.log_setChan]
  case rxArrive b =>
    simp only [exec, execRxArrive]
    refine eventStep_setChan s c' x hc ?_ ?_
    · simp only [rxArriveEnabled, State.setChan_chan_of_ne h]
    · simp only [State.setChan_chan_of_ne h, State.setChan_comm h, State.setChan_draws, State.setDraws_setChan,
        State.log_setChan]
      split <;> rfl
  case irqTC =>
    simp only [exec, execIrqTC]
    refine eventStep_setChan s c' x hc ?_ ?_
    · simp only [irqTCEnabled, State.setChan_chan_of_ne h]
    · simp only [State.setChan_chan_of_ne h, State.log_setChan, clearTC_setChan h, advanceCursor_setChan h]
      split <;> rfl
  case irqRXNE =>
    simp only [exec, execIrqRXNE]
    refine eventStep_setChan s c' x hc ?_ ?_
    · simp only [irqRXNEEnabled, State.setChan_chan_of_ne h, admitted_setChan]
    · simp only [State.setChan_chan_of_ne h, State.log_setChan, clearRXNE_setChan h, memWrite_setChan,
        advanceCursor_setChan h]
      split <;> rfl
  case forceTxCplt =>
    simp only [exec, execForceTxCplt]
    refine eventStep_setChan s c' x hc ?_ ?_
    · simp only [forceEnabled, State.setChan_chan_of_ne h]
    · simp only [disengage_setChan h, clearTC_setChan h, txCplt_setChan h]
  case forceRxCplt =>
    simp only [exec, execForceRxCplt]
    refine eventStep_setChan s c' x hc ?_ ?_
    · simp only [forceEnabled, State.setChan_chan_of_ne h]
    · simp only [disengage_setChan h, rxCplt_setChan h]

end

end Sys2Proof.Machine
end

section
/-! The statements of 10_state.md about the parts of the state and the steps that write them. -/

namespace Sys2Proof.Safety

open Sys2Proof.Machine

/-- Settles O7: the fetch finds the statement and the move is its meaning. -/
theorem taskLineRunsTheStatementAtTpc : Obligations.TaskLineRunsTheStatementAtTpc := by
  intro s rest p i hs hf hp hd
  rw [step_cons hs]
  exact move_task_of_decoded hf hp hd

/-- Settles O11: each value stands in the reset state. -/
theorem resetHoldsTheSpecifiedValues : Obligations.ResetHoldsTheSpecifiedValues := by
  refine ⟨fun c => ?_, rfl, rfl, rfl, rfl, rfl, rfl, rfl, rfl, rfl⟩
  have hslot : State.reset.chan c = ChanState.reset := by cases c <;> rfl
  rw [hslot]
  decide

/-- Settles O22: under a fault the task's frame is closed and an event writes nothing of the task agent's. -/
theorem faultIsStickyAndHaltsTheTask : Obligations.FaultIsStickyAndHaltsTheTask := by
  intro s f hf
  refine ⟨fun t ht => ?_, fun rest hs => ?_, fun i hi => ?_⟩
  · obtain ⟨l, rest, -, ⟨i, -, -, he⟩ | ⟨p, -, hn, -⟩ | ⟨a, v, -, rfl⟩⟩ := step_effect ht
    · obtain ⟨htpc, hr, hfault⟩ := he.taskSame hf
      exact ⟨hfault.trans hf, htpc, hr⟩
    · exact absurd (hf.symm.trans hn) (Option.some_ne_none f)
    · exact ⟨hf, rfl, rfl⟩
  · rw [step_cons hs]
    exact move_task_of_fault hf
  · obtain ⟨body, hb⟩ := exec_eq_taskStep hi
    rw [hb, taskStep_of_some hf]

/-- Settles O30: the enabled arrival answers, and with a byte pending the answer is the overrun's. -/
theorem rxArriveOverrunLosesOneByte : Obligations.RxArriveOverrunLosesOneByte := by
  intro s ch c b hc _ hi hn
  obtain ⟨t, ht⟩ : ∃ t, exec (.rxArrive ch b) s = .next t := 
    ⟨_, (eventStep_of_enabled (enabled := rxArriveEnabled) hc hi _ : execRxArrive ch b s = _)⟩
  cases exec_effect ht with
  | faulted _ _ _ hctx => cases hctx
  | arrived _ c' _ hc' _ hn' =>
    cases hc.symm.trans hc'
    exact absurd (hn'.symm.trans hn) Bool.false_ne_true
  | overran _ c' _ hc' =>
    cases hc.symm.trans hc'
    refine ⟨_, overrunDraw (s.chan c).rdr b s.draws, ht, ?_, State.put_chan_same .., State.put_sameElsewhere,
      State.put_taskSame, State.put_hist ..⟩
    unfold overrunDraw
    split
    · exact .inl rfl
    · exact .inr rfl

/-- Settles O41: the other slot is not written, and replacing it before the step is replacing it after. -/
theorem stepOfOneChannelIgnoresTheOther : Obligations.StepOfOneChannelIgnoresTheOther := by
  intro s i ch c c' x hi hc _ hne
  have key := exec_setChan hne s x hi hc
  refine ⟨fun t ht => ⟨(exec_effect ht).chan_other hi hc hne, ?_⟩, fun f hf => ?_, fun f hf => ?_⟩
  · rw [key, ht]; rfl
  · rw [key, hf]; rfl
  · rw [key, hf]; rfl

/-- Settles O42: each listed term serves one direction. -/
theorem directionsAreIndependent : Obligations.DirectionsAreIndependent := by
  intro s t ch a b byte i _ ht
  have he := exec_effect ht
  refine ⟨fun hi => he.rxSame_of_tx ?_, fun hi c => he.txSame_of_rx ?_ c⟩
  all_goals
    simp only [List.mem_cons, List.not_mem_nil, or_false] at hi
    obtain rfl | rfl | rfl | rfl | rfl | rfl := hi <;> rfl

/-- Settles O43: a step leaves the slot, or an instruction keeps what initialization made. -/
theorem initialisationIsPermanent : Obligations.InitialisationIsPermanent := by
  intro s t c _ ht
  obtain hsame | ⟨l, rest, i, -, -, -, he⟩ := step_chan_cases ht c
  · rw [hsame]; exact InitKept.refl _
  · have hkept := he.initKept c
    rw [State.chan_withSchedule s rest] at hkept
    exact hkept

/-- Settles O44: of the terms that change a flag only an arming sets it. -/
theorem onlyArmingSetsAFlag : Obligations.OnlyArmingSetsAFlag := by
  intro s t c d _ ht h0 h1
  obtain ⟨i, ch, hn, -, hc, ⟨-, hf, htask, ptr, len, rfl⟩ | ⟨hclear, -⟩⟩ :=
    step_busy_changed ht (by rw [h0, h1]; exact Bool.noConfusion)
  · exact ⟨ch, ptr, len, hc, hf, htask, by cases d <;> exact hn⟩
  · rw [h1] at hclear; cases hclear

/-- Settles O45: of the terms that change a flag, those that clear it are the ones listed. -/
theorem onlyItsOwnStepsClearAFlag : Obligations.OnlyItsOwnStepsClearAFlag := by
  intro s t c d _ ht h1 h0
  obtain ⟨i, ch, hn, hi, hc, ⟨hset, -⟩ | ⟨-, hclears⟩⟩ :=
    step_busy_changed ht (by rw [h0, h1]; exact Bool.noConfusion)
  · rw [h0] at hset; cases hset
  · exact ⟨i, ch, hn, hi, hc, by cases d <;> exact hclears⟩

/-- Settles O46: an outside write reads differently at its own address only, and an instruction's store is a receive's. -/
theorem onlyReceiveStoresChangeMemory : Obligations.OnlyReceiveStoresChangeMemory := by
  intro s t a _ ht ha
  obtain ⟨l, rest, hs, ⟨i, hn, -, he⟩ | ⟨p, -, -, rfl⟩ | ⟨w, v, rfl, rfl⟩⟩ := step_effect ht
  · obtain ⟨ch, c, rfl, hc, hr, haddr, hadm⟩ := he.mem_changed ha
    rw [State.chan_withSchedule s rest] at hr haddr
    exact .inr ⟨ch, c, hn, hc, hr, haddr, hadm, admitted_lt hadm⟩
  · exact absurd rfl ha
  · refine .inl ⟨w, v, by rw [hs]; rfl, Decidable.not_not.1 fun hne => ha ?_⟩
    exact Memory.read_write_other s.mem v hne

/-- Settles O49: the line is taken before the move, and no move writes these fields. -/
theorem programAndLaunchNeverChange : Obligations.ProgramAndLaunchNeverChange := by
  intro s t ht
  obtain ⟨l, rest, hs, hmove⟩ := step_effect ht
  have hsame : LaunchSame { s with schedule := rest } t := by
    obtain ⟨i, -, -, he⟩ | ⟨p, -, -, rfl⟩ | ⟨a, v, -, rfl⟩ := hmove
    · exact he.launchSame
    · exact ⟨rfl, rfl, rfl⟩
    · exact ⟨rfl, rfl, rfl⟩
  obtain ⟨hprogram, hschedule, hlaunch⟩ := hsame
  exact ⟨hprogram, hlaunch, l, hs.trans (by rw [hschedule])⟩

/-- Settles O50: element by element, over the cases of a step. -/
theorem ghostStateOnlyGrows : Obligations.GhostStateOnlyGrows := by
  intro s t ht
  refine ⟨?_, fun c _ => ?_⟩
  · obtain ⟨l, rest, -, ⟨i, -, -, he⟩ | ⟨p, -, -, rfl⟩ | ⟨a, v, -, rfl⟩⟩ := step_effect ht
    · exact he.hist_grows
    · exact ⟨_, rfl⟩
    · exact ⟨[], (List.append_nil _).symm⟩
  · obtain hsame | ⟨l, rest, i, -, hn, -, he⟩ := step_chan_cases ht c
    · rw [hsame]; exact ⟨id, .inl rfl⟩
    · have hovr := he.ovr_kept c
      rw [State.chan_withSchedule s rest] at hovr
      refine ⟨hovr, ?_⟩
      by_cases hline : (t.chan c).txLine = (s.chan c).txLine
      · exact .inl hline
      · obtain ⟨ch, b, rfl, hc, hgrow, hhist⟩ := he.txLine_changed (by rwa [State.chan_withSchedule s rest])
        rw [State.chan_withSchedule s rest] at hgrow
        exact .inr ⟨ch, b, hn, hc, hgrow, hhist⟩

/-- Settles O52: the fetch finds a statement exactly below the program's length. -/
theorem taskLineMovesExactlyWhileUnfinished : Obligations.TaskLineMovesExactlyWhileUnfinished := by
  intro s rest hs
  rw [step_cons hs]
  have finished (hf : s.fault = none) (hlen : s.program.length ≤ s.tpc) :
      move .task { s with schedule := rest } = .refused .taskFinished := move_task_of_finished hf hlen
  refine ⟨fun _ hf => ⟨fun ⟨t, ht⟩ => ?_, fun hlt => move_task_of_unfinished hf hlt⟩, fun hlen => ⟨fun t ht => ?_, ?_⟩⟩
  · refine Nat.lt_of_not_le fun hlen => ?_
    rw [finished hf hlen] at ht; cases ht
  · cases hf : s.fault with
    | none => rw [finished hf hlen] at ht; cases ht
    | some f => rw [move_task_of_fault (s := { s with schedule := rest }) hf] at ht; cases ht
  · exact fun hf => finished hf hlen

end Sys2Proof.Safety
end

section
/-! SUPPORT. Memory as data, and what one step does to it (20_memory.md): equal reads of canonical listings, the form kept
by every step, the instruction a step is known to run. -/

namespace Sys2Proof.Machine

open Sys2Proof.Safety

/-! Canonical listings (R60, log 6). -/

/-- The first listed byte is not the unlisted one, so a memory that reads the same lists something at or below it. -/
theorem Memory.head_not_below {k : Nat} {v : Byte} {m m' : Memory} (h : Memory.wf ((k, v) :: m))
    (heq : ∀ a, Memory.read ((k, v) :: m) a = m'.read a) : ¬ ∀ cell ∈ m', k < cell.1 := by
  intro hbelow
  obtain ⟨-, hlisted⟩ := h.2 (k, v) List.mem_cons_self
  have hk := heq k
  rw [Memory.read_cons, if_pos rfl, Memory.read_of_below hbelow] at hk
  exact hlisted hk

/-- Listings with one head address that read the same have one head byte and tails that read the same. -/
theorem Memory.read_tail_eq {k : Nat} {v v' : Byte} {m m' : Memory} (h : Memory.wf ((k, v) :: m))
    (h' : Memory.wf ((k, v') :: m')) (heq : ∀ a, Memory.read ((k, v) :: m) a = Memory.read ((k, v') :: m') a) :
    v = v' ∧ ∀ a, m.read a = m'.read a := by
  simp only [Memory.read_cons] at heq
  refine ⟨by simpa using heq k, fun a => ?_⟩
  by_cases ha : a = k
  · rw [ha, Memory.read_of_below (Memory.wf_cons h).1, Memory.read_of_below (Memory.wf_cons h').1]
  · simpa [ha] using heq a

/-- Canonical memories that read the same are the same listing. -/
theorem Memory.eq_of_read_eq {m m' : Memory} (h : m.wf) (h' : m'.wf) (heq : ∀ a, m.read a = m'.read a) : m = m' := by
  induction m generalizing m' with
  | nil =>
    cases m' with
    | nil => rfl
    | cons x' m' => exact absurd (by simp) (Memory.head_not_below h' fun a => (heq a).symm)
  | cons x m ih =>
    obtain ⟨k, v⟩ := x
    cases m' with
    | nil => exact absurd (by simp) (Memory.head_not_below h heq)
    | cons x' m' =>
      obtain ⟨k', v'⟩ := x'
      have below {p q : Nat} {w : Byte} {n : Memory} (hn : Memory.wf ((q, w) :: n)) (hpq : p < q) :
          ∀ cell ∈ (q, w) :: n, p < cell.1 :=
        List.forall_mem_cons.2 ⟨hpq, fun cell hc => Nat.lt_trans hpq ((Memory.wf_cons hn).1 cell hc)⟩
      obtain hlt | rfl | hgt := Nat.lt_trichotomy k k'
      · exact absurd (below h' hlt) (Memory.head_not_below h heq)
      · obtain ⟨rfl, htail⟩ := Memory.read_tail_eq h h' heq
        rw [ih (Memory.wf_cons h).2 (Memory.wf_cons h').2 htail]
      · exact absurd (below h hgt) (Memory.head_not_below h' fun a => (heq a).symm)

/-! The two events that access memory (R62, R63): each answers where it is enabled. -/

theorem txEmitEnabled_iff (c : Chan) (s : State) :
    txEmitEnabled c s = true ↔
      (s.chan c).inited = true ∧ (s.chan c).tx.run = true ∧ (s.chan c).tc = false ∧
        s.admitted (s.chan c).tx.address = true := by
  simp only [txEmitEnabled, Bool.and_eq_true, Bool.not_eq_true', and_assoc]

theorem irqRXNEEnabled_iff (c : Chan) (s : State) :
    irqRXNEEnabled c s = true ↔
      (s.chan c).ven = true ∧ (s.chan c).ieRxne = true ∧ (s.chan c).rxne = true ∧
        ((s.chan c).rx.run = false ∨ s.admitted (s.chan c).rx.address = true) := by
  simp only [irqRXNEEnabled, Bool.and_eq_true, Bool.or_eq_true, Bool.not_eq_true', and_assoc]

section
variable {s : State} {ch : ChanId} {c : Chan} (hc : chanOfId ch = some c)
include hc

theorem exec_txEmit_next (he : txEmitEnabled c s = true) : ∃ t, exec (.txEmit ch) s = .next t :=
  ⟨_, (eventStep_of_enabled hc he _ : execTxEmit ch s = _)⟩

theorem exec_irqRXNE_next (he : irqRXNEEnabled c s = true) : ∃ t, exec (.irqRXNE ch) s = .next t :=
  ⟨_, (eventStep_of_enabled hc he _ : execIrqRXNE ch s = _)⟩

end

/-- With a receive engaged `IrqRXNE` stores `RDR` at the cursor and advances; on the last byte it completes (R175). -/
theorem Effect.stored_of_engaged {s t : State} {ch : ChanId} {c : Chan} (he : Effect s (.irqRXNE ch) t)
    (hc : chanOfId ch = some c) (hr : (s.chan c).rx.run = true) :
    ∃ x es, t = s.put c x (s.mem.write (s.chan c).rx.address (s.chan c).rdr) s.tpc s.r es s.draws ∧
      (((s.chan c).rx.cur + 1 ≠ (s.chan c).rx.len ∧
          x = { s.chan c with rxne := false, rx := { (s.chan c).rx with cur := (s.chan c).rx.cur + 1 } } ∧
          es = [.irq c .rxne, .rxStore c (s.chan c).rx.address (s.chan c).rdr]) ∨
        ((s.chan c).rx.cur + 1 = (s.chan c).rx.len ∧
          x = { s.chan c with
            rxne := false, rx := { (s.chan c).rx with cur := (s.chan c).rx.cur + 1, run := false }, rxBusy := false } ∧
          es = [.irq c .rxne, .rxStore c (s.chan c).rx.address (s.chan c).rdr, .cplt c .rx])) := by
  cases he with
  | faulted _ _ _ hctx => cases hctx
  | rxStored _ c' hc' _ _ _ _ _ hshort =>
    cases hc.symm.trans hc'
    exact ⟨_, _, rfl, .inl ⟨hshort, rfl, rfl⟩⟩
  | rxCompleted _ c' hc' _ _ _ _ _ hlast =>
    cases hc.symm.trans hc'
    exact ⟨_, _, rfl, .inr ⟨hlast, rfl, rfl⟩⟩
  | rxDiscarded _ c' hc' _ _ _ hr' =>
    cases hc.symm.trans hc'
    exact absurd (hr'.symm.trans hr) Bool.false_ne_true

/-! One step. -/

/-- An instruction keeps the canonical form: the one address it may write is an admitted one (R61, R63). -/
theorem Effect.mem_wf {s t : State} {i : Instr} (he : Effect s i t) (h : s.mem.wf) : t.mem.wf := by
  cases he with
  | rxStored _ _ _ _ _ _ _ ha | rxCompleted _ _ _ _ _ _ _ ha =>
    rw [State.put_mem]
    exact Memory.wf_write h (admitted_lt ha) _
  | faulted | branched => exact h
  | _ => rw [State.put_mem]; exact h

/-- A step keeps the canonical form of memory. -/
theorem step_mem_wf {s t : State} (h : step s = .next t) (hm : s.mem.wf) : t.mem.wf := by
  obtain ⟨l, rest, -, ⟨i, -, -, he⟩ | ⟨p, -, -, rfl⟩ | ⟨a, v, -, rfl⟩⟩ := step_effect h
  · exact he.mem_wf hm
  · exact hm
  · exact outsideWrite_wf hm a v

/-- A step whose next instruction is known runs it, on the state with the line taken. -/
theorem step_effect_of_nextInstr {s t : State} {i : Instr} (h : step s = .next t) (hi : nextInstr s = some i) :
    ∃ rest, Effect { s with schedule := rest } i t := by
  obtain ⟨l, rest, hs, hm⟩ := step_next h
  refine ⟨rest, exec_effect ?_⟩
  unfold nextInstr nextLine at hi
  rw [hs] at hi
  cases hl : fetchLine l { s with schedule := rest } with
  | error o => simp only [hl] at hi; cases hi
  | ok j =>
    simp only [hl] at hi
    cases hi
    simpa only [move, hl] using hm

end Sys2Proof.Machine
end

section
/-! The statements of 20_memory.md about memory as data and about the steps that read or write one byte of it. -/

namespace Sys2Proof.Safety

open Sys2Proof.Machine

/-- Settles O47: the two laws of a write. -/
theorem memoryReadsWhatWasWritten : Obligations.MemoryReadsWhatWasWritten :=
  fun _ a b v hm ha => ⟨Memory.read_write hm a v b, Memory.wf_write hm ha v⟩

/-- Settles O48: by induction on both listings, head cell first. -/
theorem equalReadsMeanEqualMemories : Obligations.EqualReadsMeanEqualMemories :=
  fun _ _ => Memory.eq_of_read_eq

/-- Settles O10: the line's move is the write. -/
theorem outsideWriteChangesOneByte : Obligations.OutsideWriteChangesOneByte := by
  intro s rest a v hs hm
  exact ⟨s.mem.write a.toNat v, step_cons hs, Memory.read_write hm a.toNat v⟩

/-- Settles O28: the enabled event answers, and its one effect is the emission. -/
theorem txEmitSendsTheByteAtTheCursor : Obligations.TxEmitSendsTheByteAtTheCursor := by
  intro s ch c hc _ hi hr htc ha
  obtain ⟨t, ht⟩ := exec_txEmit_next hc ((txEmitEnabled_iff c s).2 ⟨hi, hr, htc, ha⟩)
  cases exec_effect ht with
  | faulted _ _ _ hctx => cases hctx
  | emitted _ c' hc' =>
    cases hc.symm.trans hc'
    exact ⟨_, _, ht, rfl, State.put_chan_same .., State.put_sameElsewhere, State.put_taskSame, State.put_draws ..,
      State.put_hist ..⟩

/-- Settles O33: the enabled event answers with a store, short of the last byte or of the last byte. -/
theorem irqRXNEStoresTheReceivedByte : Obligations.IrqRXNEStoresTheReceivedByte := by
  intro s ch c hc _ hv hie hn hr ha hm
  obtain ⟨t, ht⟩ := exec_irqRXNE_next hc ((irqRXNEEnabled_iff c s).2 ⟨hv, hie, hn, .inr ha⟩)
  have he := exec_effect ht
  obtain ⟨x, es, rfl, hslot⟩ := he.stored_of_engaged hc hr
  refine ⟨_, ht, ?_, fun a hne => ?_, fun c' hne => he.chan_other rfl hc hne, he.launchSame, State.put_taskSame,
    State.put_draws .., fun hlast => ?_, fun hshort => ?_⟩
  · rw [State.put_mem]
    exact (Memory.read_write hm _ _ _).trans (if_pos rfl)
  · rw [State.put_mem]
    exact Memory.read_write_other s.mem _ hne
  · obtain ⟨hshort, -, -⟩ | ⟨-, rfl, rfl⟩ := hslot
    · exact absurd hlast hshort
    · exact ⟨State.put_chan_same .., State.put_hist ..⟩
  · obtain ⟨-, rfl, rfl⟩ | ⟨hlast, -, -⟩ := hslot
    · exact ⟨State.put_chan_same .., State.put_hist ..⟩
    · exact absurd hlast hshort

end Sys2Proof.Safety
end

section
/-! SUPPORT. A receive under way (R71, R118, R158): what a step does to its engine and to the record of its stores, how it
ends, and the part of the buffer it has filled, along a run. -/

namespace Sys2Proof.Safety

open Sys2Proof.Machine

/-- What holds at the start of a run and is kept by each of its steps holds at its end. -/
theorem Run.keeps {ok : State → State → Prop} {P : State → Prop} {s t : State}
    (hrun : Run ok s t) (h0 : P s) (hstep : ∀ a b, P a → ProperStep a b → ok a b → P b) : P t := by
  induction hrun with
  | refl => exact h0
  | more _ hproper hok ih => exact hstep _ _ ih hproper hok

end Sys2Proof.Safety

namespace Sys2Proof.Machine

open Sys2Proof.Safety

/-! What an instruction and a step do to a receive of channel `c`. -/

/-- A slot that differs is the replaced one. -/
theorem State.put_chan_ne {s : State} {c c' : Chan} {x : ChanState} {m : Memory} {tpc : Nat} {r : Option Bool}
    {es : List Event} {n : Nat} (h : (s.put c x m tpc r es n).chan c' ≠ s.chan c') : c' = c :=
  Decidable.not_not.1 fun hne => h (State.put_chan_other _ _ _ _ _ _ _ _ _ hne)

/-- The instruction is `IrqRXNE` of channel `c`, the only one that stores for it (R63, R175). -/
def ServesReceive (c : Chan) (i : Instr) : Prop := ∃ ch, i = .irqRXNE ch ∧ chanOfId ch = some c

/-- An instruction before and after which the RX flag is set leaves the receive engine alone, the channel's own `IrqRXNE`
apart: arming finds it clear, an abort and a forced completion clear it. -/
theorem Effect.rx_kept {s t : State} {i : Instr} {c : Chan} (he : Effect s i t) (hown : ¬ ServesReceive c i)
    (hb : (s.chan c).rxBusy = true) (hb' : (t.chan c).rxBusy = true) : (t.chan c).rx = (s.chan c).rx := by
  by_cases hsame : t.chan c = s.chan c
  · rw [hsame]
  cases he with
  | faulted => exact absurd (Faulted_chan ..) hsame
  | branched => exact absurd (State.chan_mk ..) hsame
  | receiveArmed _ _ _ _ _ _ _ _ _ hclear =>
    obtain rfl := State.put_chan_ne hsame
    exact absurd (hclear.symm.trans hb) Bool.false_ne_true
  | receiveAborted | rxForced =>
    obtain rfl := State.put_chan_ne hsame
    rw [State.put_chan_same] at hb'
    exact absurd hb' Bool.false_ne_true
  | rxStored ch c' hc | rxCompleted ch c' hc =>
    obtain rfl := State.put_chan_ne hsame
    exact absurd ⟨ch, rfl, hc⟩ hown
  | _ => exact State.put_chan_rel (R := fun x y => y.rx = x.rx) (by rfl) (fun _ => rfl) c

/-- An instruction that is no `IrqRXNE` of channel `c` logs no store of it. -/
theorem Effect.logs_no_store {s t : State} {i : Instr} {c : Chan} (he : Effect s i t) (hown : ¬ ServesReceive c i) :
    ∃ es, t.hist = s.hist ++ es ∧ es.filterMap (Event.store c) = [] := by
  cases he with
  | faulted i f => exact ⟨[.fault f.kind], rfl, rfl⟩
  | branched => exact ⟨[], (List.append_nil _).symm, rfl⟩
  | rxStored ch c' hc | rxCompleted ch c' hc =>
    have hne : c' ≠ c := fun h => hown ⟨ch, rfl, h ▸ hc⟩
    exact ⟨_, State.put_hist .., by simp [Event.store, hne]⟩
  | _ => exact ⟨_, State.put_hist .., rfl⟩

/-- `initialise` writes nothing of a channel that is initialized already (R101). -/
theorem Effect.chan_initialise_of_inited {s t : State} {ch : ChanId} {c : Chan} {baud : Word}
    (he : Effect s (.initialise ch baud) t) (hi : (s.chan c).inited = true) : t.chan c = s.chan c := by
  cases he with
  | faulted => exact Faulted_chan ..
  | initialised _ c' _ _ _ hi' =>
    refine State.put_chan_other _ _ _ _ _ _ _ _ _ fun h => ?_
    rw [← h, hi] at hi'
    cases hi'

/-- A step keeps what initialization of a slot made. -/
theorem step_initKept {s t : State} (h : step s = .next t) (c : Chan) : InitKept (s.chan c) (t.chan c) := by
  obtain hsame | ⟨l, rest, i, -, -, -, he⟩ := step_chan_cases h c
  · rw [hsame]; exact .refl _
  · have hkept := he.initKept c
    rwa [State.chan_withSchedule s rest] at hkept

/-- The next step is `IrqRXNE` of channel `c`. -/
def ReceiveStepNext (c : Chan) (s : State) : Prop := ∃ ch, nextInstr s = some (.irqRXNE ch) ∧ chanOfId ch = some c

/-- A step that is no `IrqRXNE` of channel `c` and leaves its RX flag set leaves its receive engine alone and logs no store
of it. -/
theorem step_receive_kept {s t : State} {c : Chan} (h : step s = .next t) (hown : ¬ ReceiveStepNext c s)
    (hb : (s.chan c).rxBusy = true) (hb' : (t.chan c).rxBusy = true) :
    (t.chan c).rx = (s.chan c).rx ∧ ∃ es, t.hist = s.hist ++ es ∧ es.filterMap (Event.store c) = [] := by
  obtain ⟨l, rest, -, ⟨i, hn, -, he⟩ | ⟨p, -, -, rfl⟩ | ⟨a, v, -, rfl⟩⟩ := step_effect h
  · have hown' : ¬ ServesReceive c i := fun ⟨ch, hi, hc⟩ => hown ⟨ch, hi ▸ hn, hc⟩
    have hrx := he.rx_kept hown' (by rwa [State.chan_withSchedule s rest]) hb'
    rw [State.chan_withSchedule s rest] at hrx
    exact ⟨hrx, he.logs_no_store hown'⟩
  · exact ⟨by simp, _, rfl, rfl⟩
  · exact ⟨by simp, [], (List.append_nil _).symm, rfl⟩

theorem cancelcount_append_cancel (c : Chan) (d : Dir) (h : List Event) :
    cancelcount c d (h ++ [.cancel c d]) = cancelcount c d h + 1 := by
  simp [cancelcount, Event.isCancel]

/-- In the machine proper, a transfer of an initialized channel that no abort ends is ended by its interrupt step. -/
theorem isrStep_of_flag_cleared {s t : State} {c : Chan} {d : Dir} (h : ProperStep s t)
    (hi : (s.chan c).inited = true) (hcancel : cancelcount c d t.hist = cancelcount c d s.hist)
    (hb : (s.chan c).busy d = true) (hb' : (t.chan c).busy d = false) :
    ∃ ch, nextInstr s = some (isrStepOf d ch) ∧ chanOfId ch = some c := by
  obtain ⟨hstep, hproper⟩ := h
  obtain ⟨i, ch, hn, -, hc, ⟨hset, -⟩ | ⟨-, ⟨baud, rfl⟩ | ⟨-, hhist⟩ | ⟨rfl | rfl, -⟩⟩⟩ :=
    step_busy_changed (c := c) (d := d) hstep (by rw [hb, hb']; exact Bool.noConfusion)
  · exact absurd (hb'.symm.trans hset) Bool.false_ne_true
  · obtain ⟨rest, he⟩ := step_effect_of_nextInstr hstep hn
    have hsame := he.chan_initialise_of_inited (c := c) (by rwa [State.chan_withSchedule s rest])
    rw [State.chan_withSchedule s rest] at hsame
    rw [hsame, hb] at hb'
    cases hb'
  · rw [hhist, cancelcount_append_cancel] at hcancel
    omega
  · exact ⟨ch, hn, hc⟩
  · cases d with
    | tx => exact absurd ⟨ch, .inl hn⟩ hproper
    | rx => exact absurd ⟨ch, .inr hn⟩ hproper

/-- The cursor of an engaged engine does not wrap when it advances. -/
theorem cursor_succ_toNat {e : Engine} (h : EngineOk e) (hr : e.run = true) : (e.cur + 1).toNat = e.cur.toNat + 1 := by
  obtain ⟨-, hlt, -⟩ := h hr
  bv_omega

/-! The buffer filled so far. -/

/-- The first `n` bytes from address `p` hold the bytes that channel `c` stored since the history was `h`, in order. -/
def StoredInBuffer (c : Chan) (p : Nat) (h : List Event) (n : Nat) (s : State) : Prop :=
  ∃ es, s.hist = h ++ es ∧
    (List.range n).map (fun i => s.mem.read (p + i)) = (es.filterMap (Event.store c)).map Prod.snd

section
variable {c : Chan} {p n : Nat} {h es : List Event} {s t : State}

theorem StoredInBuffer.start (c : Chan) (p : Nat) (s : State) : StoredInBuffer c p s.hist 0 s :=
  ⟨[], (List.append_nil _).symm, rfl⟩

/-- It stays so while no store is logged and the filled bytes read the same. -/
theorem StoredInBuffer.keep (hs : StoredInBuffer c p h n s) (hhist : t.hist = s.hist ++ es)
    (hes : es.filterMap (Event.store c) = []) (hmem : ∀ i, i < n → t.mem.read (p + i) = s.mem.read (p + i)) :
    StoredInBuffer c p h n t := by
  obtain ⟨es₀, h₀, hread⟩ := hs
  refine ⟨es₀ ++ es, by rw [hhist, h₀, List.append_assoc], ?_⟩
  rw [List.filterMap_append, hes, List.append_nil, ← hread]
  exact List.map_congr_left fun i hi => hmem i (List.mem_range.1 hi)

/-- A logged store of the next byte fills one byte more. -/
theorem StoredInBuffer.store {a : Nat} {v : Byte} (hs : StoredInBuffer c p h n s) (hm : s.mem.wf)
    (hhist : t.hist = s.hist ++ es) (hes : es.filterMap (Event.store c) = [(a, v)])
    (hmem : t.mem = s.mem.write (p + n) v) : StoredInBuffer c p h (n + 1) t := by
  obtain ⟨es₀, h₀, hread⟩ := hs
  refine ⟨es₀ ++ es, by rw [hhist, h₀, List.append_assoc], ?_⟩
  have hnew : t.mem.read (p + n) = v := by rw [hmem, Memory.read_write hm, if_pos rfl]
  have hold : ∀ i ∈ List.range n, t.mem.read (p + i) = s.mem.read (p + i) := fun i hi => by
    have := List.mem_range.1 hi
    rw [hmem, Memory.read_write_other _ _ (by omega)]
  rw [List.range_succ, List.map_append, List.map_congr_left hold, hread, List.filterMap_append, hes, List.map_append]
  simp [hnew]

end

/-! The receive along a run. -/

/-- The receive that armed engine `e` when the history was `h` is under way with its cursor at `k`, and its stores since
stand in the buffer. -/
structure Receiving (c : Chan) (e : Engine) (h : List Event) (k : Word) (s : State) : Prop where
  inited : (s.chan c).inited = true
  busy : (s.chan c).rxBusy = true
  rx : (s.chan c).rx = { e with cur := k }
  run : e.run = true
  engineOk : EngineOk { e with cur := k }
  mem : s.mem.wf
  stored : StoredInBuffer c e.ptr.toNat h k.toNat s

section
variable {c : Chan} {e : Engine} {h : List Event} {k : Word} {s t : State}

/-- The channel's own `IrqRXNE` fills the byte at the cursor; short of the last byte the cursor advances, and on the last
one the flag clears. -/
theorem Receiving.own_step (hk : Receiving c e h k s) (hown : ReceiveStepNext c s) (hs : step s = .next t) :
    StoredInBuffer c e.ptr.toNat h (k.toNat + 1) t ∧
      ((k + 1 ≠ e.len ∧ (t.chan c).rx = { e with cur := k + 1 } ∧ (t.chan c).rxBusy = true) ∨
        (k + 1 = e.len ∧ (t.chan c).rxBusy = false)) := by
  obtain ⟨ch, hn, hc⟩ := hown
  obtain ⟨rest, he⟩ := step_effect_of_nextInstr hs hn
  have hslot : State.chan { s with schedule := rest } c = s.chan c := State.chan_withSchedule s rest c
  obtain ⟨x, es, rfl, hx⟩ := he.stored_of_engaged hc (by rw [hslot, hk.rx]; exact hk.run)
  rw [hslot, hk.rx] at hx ⊢
  have hstore : es.filterMap (Event.store c) = [(e.ptr.toNat + k.toNat, (s.chan c).rdr)] := by
    obtain ⟨-, -, rfl⟩ | ⟨-, -, rfl⟩ := hx <;>
      simp [List.filterMap_cons, Event.store, Engine.address]
  refine ⟨hk.stored.store hk.mem (State.put_hist ..) hstore (State.put_mem ..), ?_⟩
  rw [State.put_chan_same]
  obtain ⟨hshort, rfl, -⟩ | ⟨hlast, rfl, -⟩ := hx
  · exact .inl ⟨hshort, rfl, hslot ▸ hk.busy⟩
  · exact .inr ⟨hlast, rfl⟩

/-- A step that leaves the flag set, and the buffer too unless it is the channel's own `IrqRXNE`, keeps the receive under
way. -/
theorem Receiving.step_kept (hk : Receiving c e h k s) (hs : step s = .next t) (hb : (t.chan c).rxBusy = true)
    (hmem : ReceiveStepNext c s ∨ BufferKept e s t) : ∃ k', Receiving c e h k' t := by
  have hinited : (t.chan c).inited = true := (step_initKept hs c hk.inited).1
  have hwf := step_mem_wf hs hk.mem
  by_cases hown : ReceiveStepNext c s
  · obtain ⟨hstored, ⟨hshort, hrx, -⟩ | ⟨-, hclear⟩⟩ := hk.own_step hown hs
    · obtain ⟨hok, hsucc⟩ := engineOk_advance hk.engineOk hk.run hshort
      exact ⟨k + 1, hinited, hb, hrx, hk.run, hok, hwf, by rw [hsucc]; exact hstored⟩
    · exact absurd (hclear.symm.trans hb) Bool.false_ne_true
  · have hkept : BufferKept e s t := hmem.resolve_left hown
    obtain ⟨hrx, es, hhist, hes⟩ := step_receive_kept hs hown hk.busy hb
    obtain ⟨-, hlt, -⟩ := hk.engineOk hk.run
    exact ⟨k, hinited, hb, hrx.trans hk.rx, hk.run, hk.engineOk, hwf,
      hk.stored.keep hhist hes fun i hi => hkept i (Nat.lt_trans hi hlt)⟩

end

end Sys2Proof.Machine

namespace Sys2Proof.Safety

open Sys2Proof.Machine

/-- Settles O57: the receive stays under way along the run, and the last step is its `IrqRXNE` on the last byte. -/
theorem completedReceiveLeftTheBytesInTheBuffer : Obligations.CompletedReceiveLeftTheBytesInTheBuffer := by
  intro s t u c e hready hinv hrx hr hcur hrun hlast hcancel hclear
  have hok := hinv.chans c hready
  subst hrx
  have hinited : (s.chan c).inited = true := by
    refine Bool.eq_true_of_not_eq_false fun hi => ?_
    obtain ⟨-, hidle, -⟩ := hok.inert hi
    exact Bool.noConfusion (hidle.symm.trans hr)
  have start : Receiving c (s.chan c).rx s.hist 0 s :=
    ⟨hinited, hok.rxFlag.trans hr, by rw [← hcur], hr, by rw [← hcur]; exact hok.rxEngine, hinv.mem, .start ..⟩
  obtain ⟨k, hk⟩ : ∃ k, Receiving c (s.chan c).rx s.hist k t :=
    hrun.keeps (P := fun t => ∃ k, Receiving c (s.chan c).rx s.hist k t) ⟨0, start⟩
      fun _ _ ⟨_, hk⟩ ⟨hstep, _⟩ ⟨hb, _, hmem⟩ => hk.step_kept hstep hb hmem
  obtain ⟨hstored, ⟨-, -, hbusy⟩ | ⟨hend, -⟩⟩ :=
    hk.own_step (isrStep_of_flag_cleared (d := .rx) hlast hk.inited hcancel hk.busy hclear) hlast.1
  · exact absurd (hclear.symm.trans hbusy) Bool.false_ne_true
  · have hlen : (s.chan c).rx.len.toNat = k.toNat + 1 := hend ▸ cursor_succ_toNat hk.engineOk hk.run
    rw [hlen]
    exact hstored

end Sys2Proof.Safety
end

section
/-! SUPPORT. The decoder, both ways (30_encoding.md): it reads a term exactly from a packet that has the term's fields; the
header's test of a row in terms of the fields; and which packets a port rejects. -/

namespace Sys2Proof

/-! Rows by opcode and format (R84, R89). -/

/-- The one row of the host format. -/
theorem Instr.eq_brz_of_host {i : Instr} (h : i.format = .host) : ∃ target, i = .brz target := by
  cases i with
  | brz target => exact ⟨target, rfl⟩
  | _ => cases h

theorem Instr.format_eq_host_iff (i : Instr) : i.format = .host ↔ i.opcode = 0x20 := by
  cases i <;> simp [Instr.format, Instr.opcode]

theorem Instr.isCommand_iff (i : Instr) : i.isCommand = true ↔ 1 ≤ i.opcode.toNat ∧ i.opcode.toNat ≤ 7 := by
  cases i <;> simp [Instr.isCommand, Instr.format, Instr.opcode]

/-- A task program holds commands and the host statement. -/
theorem Instr.isCommand_or_host {i : Instr} (h : i.isStatement = true) : i.isCommand = true ∨ i.format = .host := by
  cases i with
  | initialise | send | receive | isSendComplete | isReceiveComplete | abortSend | abortReceive => exact .inl rfl
  | brz => exact .inr rfl
  | txEmit | rxArrive | irqTC | irqRXNE | forceTxCplt | forceRxCplt => cases h

/-- Every opcode from 0x01 to 0x07 is a command's (R84). -/
theorem exists_command_of_opcode {op : BitVec 8} (h1 : 1 ≤ op.toNat) (h7 : op.toNat ≤ 7) :
    ∃ row : Instr, row.isCommand = true ∧ row.opcode = op := by
  have hop : op = 1 ∨ op = 2 ∨ op = 3 ∨ op = 4 ∨ op = 5 ∨ op = 6 ∨ op = 7 := by bv_omega
  obtain rfl | rfl | rfl | rfl | rfl | rfl | rfl := hop
  · exact ⟨.initialise 0 0, rfl, rfl⟩
  · exact ⟨.send 0 0 0, rfl, rfl⟩
  · exact ⟨.receive 0 0 0, rfl, rfl⟩
  · exact ⟨.isSendComplete 0, rfl, rfl⟩
  · exact ⟨.isReceiveComplete 0, rfl, rfl⟩
  · exact ⟨.abortSend 0, rfl, rfl⟩
  · exact ⟨.abortReceive 0, rfl, rfl⟩

/-! The header word as numbers (R82). -/

theorem Packet.op_toNat (p : Packet) : p.op.toNat = p.w0.toNat / 2 ^ 24 := by
  have := p.w0.isLt
  simp only [Packet.op, BitVec.extractLsb'_toNat, Nat.shiftRight_eq_div_pow]
  omega

theorem Packet.rsv_eq_zero_iff (p : Packet) : p.rsv = 0 ↔ p.w0.toNat % 2 ^ 16 = 0 := by
  rw [← BitVec.toNat_inj]
  simp [Packet.rsv]

/-- The header word a term is encoded with; `brz` has channel field 0 (R89). -/
theorem encode_w0 (i : Instr) : (encode i).w0 = headerWord i.opcode (i.channel.getD 0) := by cases i <;> rfl

/-! What the decoder reads. -/

theorem HasFieldsOf.ch_eq {p : Packet} {i : Instr} (h : HasFieldsOf p i) : p.ch = i.channel.getD 0 := by
  cases i with
  | brz => exact h.1
  | initialise | send | receive | rxArrive => exact h.1.symm
  | _ => exact h.symm

/-- A packet with a term's opcode and fields, and no reserved bits, is read as the term. -/
theorem decode_of_fields {p : Packet} {i : Instr} (hr : p.rsv = 0) (ho : p.op = i.opcode) (hf : HasFieldsOf p i) :
    decode p = .ok i := by
  cases i <;> simp only [HasFieldsOf] at hf <;> simp [decode, hr, ho, hf, Instr.opcode]

/-- The packet of a term has the header word the term is encoded with. -/
theorem decode_w0 {p : Packet} {i : Instr} (h : decode p = .ok i) : p.w0 = (encode i).w0 := by
  obtain ⟨hr, ho, hf⟩ := decode_ok h
  calc p.w0 = headerWord p.op p.ch := header_of_fields p.w0 hr
    _ = (encode i).w0 := by rw [encode_w0, ho, hf.ch_eq]

/-- A packet is read as a term of a row exactly when its header has no reserved bits, the row's opcode and, for the row of
`brz`, channel field 0. -/
theorem decode_row_iff (p : Packet) (row : Instr) :
    (∃ i, decode p = .ok i ∧ i.opcode = row.opcode) ↔
      p.rsv = 0 ∧ p.op = row.opcode ∧ (row.format = .host → p.ch = 0) := by
  constructor
  · rintro ⟨i, hd, hi⟩
    obtain ⟨hr, ho, hf⟩ := decode_ok hd
    refine ⟨hr, ho.trans hi, fun hhost => ?_⟩
    have hihost : i.format = .host := i.format_eq_host_iff.2 (hi.trans (row.format_eq_host_iff.1 hhost))
    obtain ⟨target, rfl⟩ := Instr.eq_brz_of_host hihost
    exact hf.ch_eq
  · rintro ⟨hr, ho, hch⟩
    cases hd : decode p with
    | ok i =>
      obtain ⟨-, hop, -⟩ := decode_ok hd
      exact ⟨i, rfl, hop.symm.trans ho⟩
    | error e =>
      obtain hrsv | hop | ⟨hbrz, hne⟩ := decode_error hd
      · exact absurd hr hrsv
      · exact absurd ho (hop row)
      · exact absurd (hch (row.format_eq_host_iff.2 (ho.symm.trans hbrz))) hne

/-- The row's test `W0 & mask = match` in terms of the header's fields (R84, R89). -/
theorem header_matches_iff (p : Packet) (row : Instr) :
    p.w0 &&& row.mask = row.matchBits ↔ p.rsv = 0 ∧ p.op = row.opcode ∧ (row.format = .host → p.ch = 0) := by
  by_cases hhost : row.format = .host
  · obtain ⟨target, rfl⟩ := Instr.eq_brz_of_host hhost
    have hbrz : p.w0 &&& 0xFFFFFFFF#32 = (0x20 : BitVec 8).setWidth 32 <<< 24 ↔ p.op = 0x20 ∧ p.rsv = 0 ∧ p.ch = 0 :=
      mask_matches_brz p.w0
    have himp : ((Instr.brz target).format = .host → p.ch = 0) ↔ p.ch = 0 := ⟨fun h => h rfl, fun h _ => h⟩
    rw [himp]
    exact hbrz.trans and_left_comm
  · have hmask : row.mask = 0xFF00FFFF#32 := by
      cases hf : row.format with
      | command | event => simp [Instr.mask, hf]
      | host => exact absurd hf hhost
    have hrow : p.w0 &&& 0xFF00FFFF#32 = row.matchBits ↔ p.op = row.opcode ∧ p.rsv = 0 :=
      mask_matches p.w0 row.opcode
    rw [hmask, hrow]
    exact ⟨fun ⟨ho, hr⟩ => ⟨hr, ho, fun h => absurd h hhost⟩, fun ⟨hr, ho, _⟩ => ⟨ho, hr⟩⟩

/-! What a port rejects (R86). -/

theorem decodeOn_error_iff (accept : Instr → Bool) (p : Packet) :
    (∃ e, decodeOn accept p = .error e) ↔ ¬ ∃ i, decode p = .ok i ∧ accept i = true := by
  simp only [← decodeOn_ok_iff]
  cases decodeOn accept p <;> simp

/-- A packet is a command exactly when its opcode is one of 0x01 to 0x07 and its reserved bits are 0. -/
theorem decode_command_iff (p : Packet) :
    (∃ i, decode p = .ok i ∧ i.isCommand = true) ↔ (1 ≤ p.op.toNat ∧ p.op.toNat ≤ 7) ∧ p.rsv = 0 := by
  constructor
  · rintro ⟨i, hd, hcmd⟩
    obtain ⟨hr, ho, -⟩ := decode_ok hd
    exact ⟨by rw [ho]; exact i.isCommand_iff.1 hcmd, hr⟩
  · rintro ⟨hop, hr⟩
    obtain ⟨row, hrow, ho⟩ := exists_command_of_opcode hop.1 hop.2
    have hhost : row.format = .host → p.ch = 0 := fun h => by simp [Instr.isCommand, h] at hrow
    obtain ⟨i, hd, hi⟩ := (decode_row_iff p row).2 ⟨hr, ho.symm, hhost⟩
    exact ⟨i, hd, i.isCommand_iff.2 (by rw [hi, ho]; exact hop)⟩

/-- A packet the command port rejects is a statement of a task program only as the `brz` of R89. -/
theorem decodeStatement_error {p : Packet} (hcmd : ∃ e, decodeCommand p = .error e) (hbrz : p.w0 ≠ 0x20000000) :
    ∃ e, decodeStatement p = .error e := by
  refine (decodeOn_error_iff _ p).2 fun ⟨i, hd, hi⟩ => ?_
  obtain hc | hhost := Instr.isCommand_or_host hi
  · exact (decodeOn_error_iff _ p).1 hcmd ⟨i, hd, hc⟩
  · obtain ⟨target, rfl⟩ := Instr.eq_brz_of_host hhost
    exact hbrz (decode_w0 hd)

end Sys2Proof
end

section
/-! SUPPORT. The assembler over lists of lines (R90, R92): a line before the others, a source after another, and what a
line needs to know of the whole source. -/

namespace Sys2Proof.Machine

@[simp] theorem sourceSize_nil : sourceSize [] = 0 := rfl

@[simp] theorem sourceSize_cons (l : AsmLine) (src : List AsmLine) :
    sourceSize (l :: src) = AsmLine.size l + sourceSize src := by
  simp [sourceSize]

/-! Labels. -/

theorem labelIndex_cons (name : String) (n : Nat) (l : AsmLine) (rest : List AsmLine) :
    labelIndex name n (l :: rest) = if l = .label name then some n else labelIndex name (n + AsmLine.size l) rest := by
  cases l <;> simp [labelIndex, AsmLine.size]

theorem labelIndex_append (name : String) (n : Nat) (xs ys : List AsmLine) :
    labelIndex name n (xs ++ ys) = (labelIndex name n xs).or (labelIndex name (n + sourceSize xs) ys) := by
  induction xs generalizing n with
  | nil => rfl
  | cons l xs ih =>
    simp only [List.cons_append, labelIndex_cons, sourceSize_cons]
    split
    · rfl
    · rw [ih, Nat.add_assoc]

theorem labelIndex_eq_none {name : String} {src : List AsmLine} (h : ∀ l ∈ src, l ≠ .label name) (n : Nat) :
    labelIndex name n src = none := by
  induction src generalizing n with
  | nil => rfl
  | cons l src ih =>
    rw [labelIndex_cons, if_neg (h l List.mem_cons_self)]
    exact ih (fun l' hl => h l' (List.mem_cons_of_mem l hl)) _

/-! Statements. -/

theorem assembleFrom_cons (whole : List AsmLine) (n : Nat) (l : AsmLine) (rest : List AsmLine) :
    assembleFrom whole n (l :: rest) =
      (assembleLine whole n l).bind fun xs => (assembleFrom whole (n + AsmLine.size l) rest).map (xs ++ ·) := by
  rw [assembleFrom]
  cases assembleLine whole n l <;> cases assembleFrom whole (n + AsmLine.size l) rest <;> rfl

theorem assembleFrom_append (whole : List AsmLine) (n : Nat) (xs ys : List AsmLine) :
    assembleFrom whole n (xs ++ ys) =
      (assembleFrom whole n xs).bind fun is => (assembleFrom whole (n + sourceSize xs) ys).map (is ++ ·) := by
  induction xs generalizing n with
  | nil => simp [assembleFrom]
  | cons l xs ih =>
    simp only [List.cons_append, assembleFrom_cons, ih, sourceSize_cons, Nat.add_assoc, Option.map_bind, Option.bind_assoc,
      Option.bind_map, Option.map_map, Function.comp_def, List.append_assoc]

/-- A line reads of the whole source only the index of the label it branches to. -/
theorem assembleLine_congr {whole whole' : List AsmLine} {l : AsmLine}
    (h : ∀ name, l = .brzTo name → labelIndex name 0 whole = labelIndex name 0 whole') (n : Nat) :
    assembleLine whole n l = assembleLine whole' n l := by
  cases l with
  | brzTo name => simp only [assembleLine, h name rfl]
  | label | stmt | waitSend | waitReceive => rfl

theorem assembleFrom_congr {whole whole' src : List AsmLine}
    (h : ∀ name, .brzTo name ∈ src → labelIndex name 0 whole = labelIndex name 0 whole') (n : Nat) :
    assembleFrom whole n src = assembleFrom whole' n src := by
  induction src generalizing n with
  | nil => rfl
  | cons l src ih =>
    rw [assembleFrom_cons, assembleFrom_cons,
      assembleLine_congr fun name hl => h name (hl ▸ List.mem_cons_self),
      ih fun name hl => h name (List.mem_cons_of_mem l hl)]

/-! A wait and the loop it stands for (R92). -/

/-- `wait` is a pseudo-statement and `query` the query it polls. -/
def Polls (ch : ChanId) (wait : AsmLine) (query : Instr) : Prop :=
  (wait = .waitSend ch ∧ query = .isSendComplete ch) ∨ (wait = .waitReceive ch ∧ query = .isReceiveComplete ch)

/-- `L: query ; brz L`. -/
def pollLoop (name : String) (query : Instr) : List AsmLine := [.label name, .stmt query, .brzTo name]

section
variable {ch : ChanId} {wait : AsmLine} {query : Instr}

theorem Polls.size (h : Polls ch wait query) : AsmLine.size wait = 2 := by
  obtain ⟨rfl, -⟩ | ⟨rfl, -⟩ := h <;> rfl

theorem Polls.ne_label (h : Polls ch wait query) (name : String) : wait ≠ .label name := by
  obtain ⟨rfl, -⟩ | ⟨rfl, -⟩ := h <;> simp

theorem Polls.ne_brzTo (h : Polls ch wait query) (name : String) : wait ≠ .brzTo name := by
  obtain ⟨rfl, -⟩ | ⟨rfl, -⟩ := h <;> simp

theorem Polls.assembleLine_wait (h : Polls ch wait query) (whole : List AsmLine) (n : Nat) :
    assembleLine whole n wait = some [query, .brz (BitVec.ofNat 32 n)] := by
  obtain ⟨rfl, rfl⟩ | ⟨rfl, rfl⟩ := h <;> rfl

theorem sourceSize_pollLoop (name : String) (query : Instr) : sourceSize (pollLoop name query) = 2 := rfl

theorem assembleFrom_pollLoop {name : String} {whole : List AsmLine} {k : Nat} (hk : labelIndex name 0 whole = some k)
    (query : Instr) (n : Nat) :
    assembleFrom whole n (pollLoop name query) = some [query, .brz (BitVec.ofNat 32 k)] := by
  simp [pollLoop, assembleFrom_cons, assembleLine, assembleFrom, hk]

variable {before after : List AsmLine} {name : String}

/-- The wait is two statements at its own index, and shifts the lines after it by two. -/
theorem Polls.assembleFrom_wait (h : Polls ch wait query) (whole : List AsmLine) (n : Nat) :
    assembleFrom whole n (before ++ wait :: after) =
      (assembleFrom whole n before).bind fun xs =>
        (assembleFrom whole (n + sourceSize before + 2) after).map fun ys =>
          xs ++ [query, Instr.brz (BitVec.ofNat 32 (n + sourceSize before))] ++ ys := by
  simp [assembleFrom_append, assembleFrom_cons, h.assembleLine_wait, h.size, Function.comp_def]

/-- The loop's label is fresh, so it names the place of the loop. -/
theorem labelIndex_pollLoop (hfresh : ∀ l ∈ before, l ≠ .label name) (query : Instr) :
    labelIndex name 0 (before ++ pollLoop name query ++ after) = some (sourceSize before) := by
  rw [List.append_assoc, labelIndex_append, labelIndex_eq_none hfresh, Nat.zero_add]
  simp [pollLoop, labelIndex_cons]

/-- Every other label names the same place with the loop as with the wait. -/
theorem Polls.labelIndex_eq (h : Polls ch wait query) {other : String} (hne : name ≠ other) :
    labelIndex other 0 (before ++ wait :: after) = labelIndex other 0 (before ++ pollLoop name query ++ after) := by
  have hwait : labelIndex other (sourceSize before) (wait :: after) = labelIndex other (sourceSize before + 2) after := by
    rw [labelIndex_cons, if_neg (h.ne_label other), h.size]
  have hloop : labelIndex other (sourceSize before) (pollLoop name query ++ after) =
      labelIndex other (sourceSize before + 2) after := by
    simp [pollLoop, labelIndex_cons, AsmLine.size, hne]
  rw [List.append_assoc, labelIndex_append, labelIndex_append, Nat.zero_add, hwait, hloop]

/-- Where the label names the loop's own place, the loop assembles as the wait. -/
theorem Polls.assembleFrom_loop (h : Polls ch wait query) {whole : List AsmLine} {n : Nat}
    (hindex : labelIndex name 0 whole = some (n + sourceSize before)) :
    assembleFrom whole n (before ++ pollLoop name query ++ after) =
      assembleFrom whole n (before ++ wait :: after) := by
  rw [h.assembleFrom_wait, List.append_assoc]
  simp [assembleFrom_append, assembleFrom_pollLoop hindex, sourceSize_pollLoop, Function.comp_def]

/-- A wait assembles as the loop under a fresh label. -/
theorem Polls.assemble_eq (h : Polls ch wait query)
    (hfresh : ∀ l ∈ before ++ after, l ≠ .label name ∧ l ≠ .brzTo name) :
    assemble (before ++ wait :: after) = assemble (before ++ pollLoop name query ++ after) := by
  have hlabels : ∀ other, .brzTo other ∈ before ++ wait :: after →
      labelIndex other 0 (before ++ wait :: after) = labelIndex other 0 (before ++ pollLoop name query ++ after) := by
    intro other hmem
    have hother : .brzTo other ∈ before ++ after := by simpa [(h.ne_brzTo other).symm] using hmem
    exact h.labelIndex_eq fun hname => (hfresh _ hother).2 (hname ▸ rfl)
  have hindex : labelIndex name 0 (before ++ pollLoop name query ++ after) = some (0 + sourceSize before) := by
    rw [Nat.zero_add]
    exact labelIndex_pollLoop (fun l hl => (hfresh l (List.mem_append_left after hl)).1) query
  unfold assemble
  rw [assembleFrom_congr hlabels, h.assembleFrom_loop hindex]

end

end Sys2Proof.Machine
end

section
/-! SUPPORT. Events (R89): the enabling condition each is run under, the one frame they share, and the line that runs
one. -/

namespace Sys2Proof.Machine

/-- An event line runs the event it encodes (R89, R91). -/
theorem move_event_of_decoded {s : State} {p : Packet} {i : Instr} (hd : decodeEvent p = .ok i) :
    move (.event p) s = exec i s := by
  simp [move, fetchLine, hd]

theorem irqTCEnabled_iff (c : Chan) (s : State) :
    irqTCEnabled c s = true ↔ (s.chan c).ven = true ∧ (s.chan c).ieTc = true ∧ (s.chan c).tc = true := by
  simp only [irqTCEnabled, Bool.and_eq_true, and_assoc]

/-- The enabling condition of an event; no other term runs under one. -/
def eventEnabled : Instr → Chan → State → Bool
  | .txEmit _ => txEmitEnabled
  | .rxArrive _ _ => rxArriveEnabled
  | .irqTC _ => irqTCEnabled
  | .irqRXNE _ => irqRXNEEnabled
  | .forceTxCplt _ => forceEnabled
  | .forceRxCplt _ => forceEnabled
  | _ => fun _ _ => false

/-- Every event runs in the one frame, under its own enabling condition. -/
theorem exec_eq_eventStep {i : Instr} {ch : ChanId} (hi : i.format = .event) (hch : i.channel = some ch) :
    ∃ body, ∀ s, exec i s = eventStep ch (eventEnabled i) body s := by
  cases i with
  | txEmit | rxArrive | irqTC | irqRXNE | forceTxCplt | forceRxCplt => cases hch; exact ⟨_, fun _ => rfl⟩
  | initialise | send | receive | isSendComplete | isReceiveComplete | abortSend | abortReceive | brz => cases hi

/-- On a known channel an event moves exactly when enabled. -/
theorem eventStep_moves_iff {ch : ChanId} {c : Chan} (hc : chanOfId ch = some c) (enabled : Chan → State → Bool)
    (body : Chan → State → State) (s : State) :
    (∃ t, eventStep ch enabled body s = .next t) ↔ enabled c s = true := by
  constructor
  · rintro ⟨t, ht⟩
    obtain ⟨c', hc', he, -⟩ := eventStep_next ht
    cases hc.symm.trans hc'
    exact he
  · exact fun he => ⟨_, eventStep_of_enabled hc he body⟩

/-- On a known channel an event moves or is refused as not enabled. -/
theorem eventStep_next_or_refused {ch : ChanId} {c : Chan} (hc : chanOfId ch = some c) (enabled : Chan → State → Bool)
    (body : Chan → State → State) (s : State) :
    (∃ t, eventStep ch enabled body s = .next t) ∨ eventStep ch enabled body s = .refused .eventNotEnabled := by
  cases he : enabled c s with
  | true => exact .inl ⟨_, eventStep_of_enabled hc he body⟩
  | false => exact .inr (eventStep_of_disabled hc he body)

end Sys2Proof.Machine
end

section
/-! The statements of 30_encoding.md about packets, their terms and the lines that run them. -/

namespace Sys2Proof.Safety

open Sys2Proof.Machine

/-- Settles O1: row by row. -/
theorem decodeOfEncodeIsTheTerm : Obligations.DecodeOfEncodeIsTheTerm := by
  intro i
  cases i with
  | initialise ch baud => exact Laws.RoundTrip.initialise ch baud
  | send ch ptr len => exact Laws.RoundTrip.send ch ptr len
  | receive ch ptr len => exact Laws.RoundTrip.receive ch ptr len
  | isSendComplete ch => exact Laws.RoundTrip.isSendComplete ch
  | isReceiveComplete ch => exact Laws.RoundTrip.isReceiveComplete ch
  | abortSend ch => exact Laws.RoundTrip.abortSend ch
  | abortReceive ch => exact Laws.RoundTrip.abortReceive ch
  | txEmit ch => exact Laws.RoundTrip.txEmit ch
  | rxArrive ch byte => exact Laws.RoundTrip.rxArrive ch byte
  | irqTC ch => exact Laws.RoundTrip.irqTC ch
  | irqRXNE ch => exact Laws.RoundTrip.irqRXNE ch
  | forceTxCplt ch => exact Laws.RoundTrip.forceTxCplt ch
  | forceRxCplt ch => exact Laws.RoundTrip.forceRxCplt ch
  | brz target => exact Laws.RoundTrip.brz target

/-- Settles O2: the row's test and the decoder ask the same of the header's fields. -/
theorem packetIsTheTermItsHeaderMatches : Obligations.PacketIsTheTermItsHeaderMatches :=
  fun p row => (header_matches_iff p row).trans (decode_row_iff p row).symm

/-- Settles O3: the decoder reads exactly the packets that have the term's fields. -/
theorem decodedTermHasThePacketsWords : Obligations.DecodedTermHasThePacketsWords := by
  intro p q i hd
  obtain ⟨hr, ho, hf⟩ := decode_ok hd
  refine ⟨(decode_w0 hd).symm, ?_, fun hw0 hwords => ?_⟩
  · cases i with
    | initialise | send | receive | rxArrive | brz => exact hf.2
    | _ => trivial
  · have hrsv : q.rsv = 0 := by rw [← hr, Packet.rsv, Packet.rsv, hw0]
    have hop : q.op = i.opcode := by rw [← ho, Packet.op, Packet.op, hw0]
    have hch : q.ch = p.ch := by rw [Packet.ch, Packet.ch, hw0]
    refine decode_of_fields hrsv hop ?_
    cases i with
    | send | receive =>
      obtain ⟨hc, hptr, hlen⟩ := hf
      exact ⟨hc.trans hch.symm, hptr.trans hwords.1.symm, hlen.trans hwords.2.symm⟩
    | initialise | rxArrive => exact ⟨hf.1.trans hch.symm, hf.2.trans hwords.symm⟩
    | brz => exact ⟨hch.trans hf.1, hf.2.trans hwords.symm⟩
    | _ => exact hf.trans hch.symm

/-- Settles O4: the command port rejects what the two fields exclude, and the task's fetch raises the fault. -/
theorem illegalPacketFaultsAndChangesNothingElse : Obligations.IllegalPacketFaultsAndChangesNothingElse := by
  refine ⟨fun p => ?_, fun s p rest hs hf hp hcmd hbrz => ?_⟩
  · rw [decodeCommand, decodeOn_error_iff, decode_command_iff, p.op_toNat, p.rsv_eq_zero_iff, not_and_or]
  · obtain ⟨e, he⟩ := decodeStatement_error hcmd hbrz
    rw [step_cons hs, ← raise_of_none (s := { s with schedule := rest }) hf]
    exact move_task_of_rejected hf hp he

/-- Settles O5: each of the words is the encoding of its term. -/
theorem workedEncodingsDecode : Obligations.WorkedEncodingsDecode :=
  ⟨decodeOfEncodeIsTheTerm (.initialise 0 115200), decodeOfEncodeIsTheTerm (.send 1 0x20000100 3),
    decodeOfEncodeIsTheTerm (.receive 0 0x20000010 4), decodeOfEncodeIsTheTerm (.isReceiveComplete 1),
    decodeOfEncodeIsTheTerm (.abortSend 0), decodeOfEncodeIsTheTerm (.brz 2),
    decodeOfEncodeIsTheTerm (.rxArrive 0 0x5A), decodeOfEncodeIsTheTerm (.irqTC 1)⟩

/-- Settles O6: the source splits at the wait, and only a branch to the loop's own label could tell the two apart. -/
theorem waitExpandsToThePollLoop : Obligations.WaitExpandsToThePollLoop := by
  intro before after ch wait query hwait
  have h : Polls ch wait query := hwait
  exact ⟨h.assembleFrom_wait, fun name hfresh => h.assemble_eq hfresh⟩

/-- A source with a wait between a branch and its label, and `L` fresh in it. -/
theorem witness_WaitExpandsToThePollLoop :
    assemble ([.brzTo "end"] ++ .waitSend 0 :: [.label "end"]) =
      assemble ([.brzTo "end"] ++ [.label "L", .stmt (.isSendComplete 0), .brzTo "L"] ++ [.label "end"]) :=
  (waitExpandsToThePollLoop _ _ 0 _ _ (.inl ⟨rfl, rfl⟩)).2 "L" (by decide)

/-- Settles O8: the fetch finds the event and the move is its meaning. -/
theorem eventLineRunsTheEvent : Obligations.EventLineRunsTheEvent := by
  intro s rest p i hs hd
  rw [step_cons hs]
  exact move_event_of_decoded hd

/-- Settles O35: every event runs in the frame that tests its enabling condition. -/
theorem eventsMoveExactlyWhenEnabled : Obligations.EventsMoveExactlyWhenEnabled := by
  intro s i ch hi hch
  obtain ⟨body, hbody⟩ := exec_eq_eventStep hi hch
  rw [hbody]
  refine ⟨fun c hc _ => ⟨?_, eventStep_next_or_refused hc _ body s⟩,
    fun h => eventStep_of_none ((chanOfId_none_iff ch).2 h) _ body s⟩
  rw [eventStep_moves_iff hc]
  cases i with
  | txEmit => exact txEmitEnabled_iff c s
  | irqTC => exact irqTCEnabled_iff c s
  | irqRXNE => exact irqRXNEEnabled_iff c s
  | rxArrive | forceTxCplt | forceRxCplt => exact Iff.rfl
  | initialise | send | receive | isSendComplete | isReceiveComplete | abortSend | abortReceive | brz => cases hi

end Sys2Proof.Safety
end

section
/-! SUPPORT. The spec of `initialize` on a known channel (40_initialize.md), the frame of a command on an initialized
channel, and the events of an uninitialized one. -/

namespace Sys2Proof.Machine

open Sys2Proof.Safety

section
variable {ch : ChanId} {c : Chan} {s : State} {baud : Word}

/-- `initialize` of a known channel without a fault pending: its checks in the order of R169, then its effect (R100 to
R102). -/
theorem exec_initialise (hc : chanOfId ch = some c) (hf : s.fault = none) :
    exec (.initialise ch baud) s = .next (
      if (s.chan c).inited then Faulted (.reinit c) s
      else if s.baudOK baud then
        s.put c ((s.chan c).initialised baud) s.mem (s.tpc + 1) s.r [.init c baud] s.draws
      else Faulted (.badBaud c baud) s) := by
  show taskStep _ s = _
  rw [taskStep_of_none hf, withChan_of_some hc, raise_of_none hf, raise_of_none hf]
  cases c <;> rfl

theorem exec_initialise_accepted (hc : chanOfId ch = some c) (hf : s.fault = none) (hi : (s.chan c).inited = false)
    (hb : s.baudOK baud = true) :
    exec (.initialise ch baud) s =
      .next (s.put c ((s.chan c).initialised baud) s.mem (s.tpc + 1) s.r [.init c baud] s.draws) := by
  simp [exec_initialise hc hf, hi, hb]

theorem exec_initialise_reinit (hc : chanOfId ch = some c) (hf : s.fault = none) (hi : (s.chan c).inited = true) :
    exec (.initialise ch baud) s = .next (Faulted (.reinit c) s) := by
  simp [exec_initialise hc hf, hi]

theorem exec_initialise_badBaud (hc : chanOfId ch = some c) (hf : s.fault = none) (hi : (s.chan c).inited = false)
    (hb : s.baudOK baud = false) : exec (.initialise ch baud) s = .next (Faulted (.badBaud c baud) s) := by
  simp [exec_initialise hc hf, hi, hb]

/-- A command on an initialized channel without a fault pending answers its body. -/
theorem readyStep_of_ready (hc : chanOfId ch = some c) (hf : s.fault = none) (hi : (s.chan c).inited = true)
    (body : Chan → State → State) : taskStep (withReadyChan ch body) s = .next (body c s) := by
  rw [taskStep_of_none hf, withReadyChan_of_ready hc hi]

/-- A query's answer is the complement of the flag (R125, R126). -/
@[simp] theorem answerQuery_r (d : Dir) (c : Chan) (s : State) :
    (answerQuery d c s).r = some !(s.chan c).busy d := by
  simp [answerQuery]

/-- `initialise` that raised no fault made a slot of the channel that is initialized, with both flags clear (R100). -/
theorem Effect.chan_of_initialise {t : State} (he : Effect s (.initialise ch baud) t) (ht : t.fault = none) :
    ∃ c, chanOfId ch = some c ∧ t.chan c = (s.chan c).initialised baud := by
  cases he with
  | faulted => cases ht
  | initialised _ c _ hc => exact ⟨c, hc, State.put_chan_same ..⟩

/-- On an inert slot no enabling condition holds: each asks for `INITED` or for a registered vector (R103, R153). -/
theorem eventEnabled_of_uninit (hok : ChanOk (s.chan c)) (hi : (s.chan c).inited = false) (i : Instr) :
    eventEnabled i c s = false := by
  obtain ⟨-, -, -, -, -, hven⟩ := hok.inert hi
  cases i with
  | txEmit => simp [eventEnabled, txEmitEnabled, hi]
  | rxArrive | forceTxCplt | forceRxCplt => exact hi
  | irqTC => simp [eventEnabled, irqTCEnabled, hven]
  | irqRXNE => simp [eventEnabled, irqRXNEEnabled, hven]
  | _ => rfl

end

end Sys2Proof.Machine
end

section
/-! The statements of 40_initialize.md. -/

namespace Sys2Proof.Safety

open Sys2Proof.Machine

/-- Settles O51: the frame of an event tests its enabling condition, and no such condition holds of an inert slot. -/
theorem uninitialisedChannelHasNoEvent : Obligations.UninitialisedChannelHasNoEvent := by
  intro s i ch c hinv hi hch hc hpins huninit
  obtain ⟨body, hbody⟩ := exec_eq_eventStep hi hch
  rw [hbody]
  exact eventStep_of_disabled hc (eventEnabled_of_uninit (hinv.chans c hpins) huninit i) body

/-- Settles O12: with every check passed the answer is the new slot and nothing else of the block. -/
theorem initialiseMakesTheChannelReady : Obligations.InitialiseMakesTheChannelReady := by
  intro s ch c baud hc _ hf hi hb
  exact ⟨_, exec_initialise_accepted hc hf hi hb, State.put_chan_same .., State.put_sameElsewhere, State.put_draws ..,
    (State.put_fault ..).trans hf, State.put_r .., State.put_tpc .., State.put_hist ..⟩

/-- Settles O13: the first failing check raises its fault, and 0 fails the baud check. -/
theorem initialiseFaultsInOrder : Obligations.InitialiseFaultsInOrder := by
  intro s ch c baud hc _ hf
  exact ⟨exec_initialise_reinit hc hf, exec_initialise_badBaud hc hf, baudOK_zero s⟩

/-- Settles O14: the slot just made is initialized, so both queries answer, and its flags are clear. -/
theorem initialisedChannelAnswersComplete : Obligations.InitialisedChannelAnswersComplete := by
  intro s t ch baud _ _ hexec ht
  obtain ⟨c, hc, hslot⟩ := (exec_effect hexec).chan_of_initialise ht
  have hi : (t.chan c).inited = true := by rw [hslot]; rfl
  have answers (d : Dir) : (answerQuery d c t).r = some true := by
    rw [answerQuery_r, hslot]
    cases d <;> rfl
  exact ⟨⟨_, readyStep_of_ready hc ht hi _, answers .tx⟩, ⟨_, readyStep_of_ready hc ht hi _, answers .rx⟩⟩

end Sys2Proof.Safety
end

section
/-! SUPPORT. `send` and `receive` on an initialized channel (41_send_receive.md), for both directions at once: the operand
checks, then the request dropped or the engine armed, and what each leaves unchanged. -/

namespace Sys2Proof.Machine

open Sys2Proof.Safety

/-! The operand checks (R166, R167, R169). -/

theorem transferFault_of_len_zero (c : Chan) (d : Dir) (ptr : Word) : transferFault c d ptr 0 = some (.badLen c d) := rfl

theorem transferFault_of_long {ptr len : Word} (h0 : len ≠ 0) (hl : 2 ^ 32 < ptr.toNat + len.toNat) (c : Chan) (d : Dir) :
    transferFault c d ptr len = some (.badBuf c d ptr len) := by
  have hfit : ¬ bufferFits ptr len = true := fun h => absurd ((bufferFits_iff ptr len).1 h) (Nat.not_le.2 hl)
  rw [transferFault, if_neg h0, if_neg hfit]

/-! What a dropped request leaves unchanged (R111, R156). -/

/-- A slot written back as it was changes no channel. -/
theorem State.put_chan_self (s : State) (c c' : Chan) (m : Memory) (tpc : Nat) (r : Option Bool) (es : List Event)
    (n : Nat) : (s.put c (s.chan c) m tpc r es n).chan c' = s.chan c' :=
  (State.put_chan_rel (R := Eq) rfl (fun _ => rfl) c').symm

theorem armcount_append_drop (c : Chan) (d : Dir) (h : List Event) (c' : Chan) (d' : Dir) :
    armcount c d (h ++ [.drop c' d']) = armcount c d h := by
  simp [armcount, Event.isArm]

/-! The term that arms a direction, on an initialized channel without a fault pending. -/

section
variable {s : State} {ch : ChanId} {c : Chan} {d : Dir} {ptr len : Word} (hc : chanOfId ch = some c)
  (hf : s.fault = none) (hi : (s.chan c).inited = true)
include hc hf hi

theorem exec_armingOf : exec (armingOf d ch ptr len) s = .next (startTransfer d ptr len c s) := by
  cases d <;> exact readyStep_of_ready hc hf hi _

/-- The first operand check that fails raises its fault, busy or not (R169). -/
theorem exec_armingOf_faults {f : FaultInfo} (h : transferFault c d ptr len = some f) :
    exec (armingOf d ch ptr len) s = .next (Faulted f s) := by
  rw [exec_armingOf hc hf hi, startTransfer, h]
  exact congrArg _ (raise_of_none hf f)

section
variable (h0 : len ≠ 0) (hl : ptr.toNat + len.toNat ≤ 2 ^ 32)
include h0 hl

/-- With good operands a busy direction drops the request (R111, R116). -/
theorem exec_armingOf_busy (hb : (s.chan c).busy d = true) :
    exec (armingOf d ch ptr len) s = .next (s.put c (s.chan c) s.mem (s.tpc + 1) s.r [.drop c d] s.draws) := by
  rw [exec_armingOf hc hf hi, startTransfer, (transferFault_eq_none_iff c d ptr len).2 ⟨h0, hl⟩]
  refine congrArg _ ((if_pos hb).trans ?_)
  cases c <;> rfl

/-- With good operands an idle direction is armed and its flag set (R110, R116). -/
theorem exec_armingOf_idle (hb : (s.chan c).busy d = false) :
    exec (armingOf d ch ptr len) s = .next
      (s.put c (((s.chan c).setEngine d (Engine.armed ptr len)).setBusy d true) s.mem (s.tpc + 1) s.r
        [.arm c d ptr len] s.draws) := by
  rw [exec_armingOf hc hf hi, startTransfer, (transferFault_eq_none_iff c d ptr len).2 ⟨h0, hl⟩]
  refine congrArg _ ((if_neg (by simp [hb])).trans ?_)
  cases c <;> rfl

/-- The drop, element by element (R111, R156). -/
theorem exec_armingOf_drops (hb : (s.chan c).busy d = true) :
    ∃ t, exec (armingOf d ch ptr len) s = .next t ∧
      (∀ c', t.chan c' = s.chan c') ∧ MemSame s t ∧ LaunchSame s t ∧ t.draws = s.draws ∧
      t.fault = none ∧ t.r = s.r ∧ t.tpc = s.tpc + 1 ∧ t.hist = s.hist ++ [.drop c d] ∧
      armcount c d t.hist = armcount c d s.hist := by
  refine ⟨_, exec_armingOf_busy hc hf hi h0 hl hb, fun c' => State.put_chan_self .., fun _ => by rw [State.put_mem],
    ⟨State.put_program .., State.put_schedule .., State.put_launch ..⟩, State.put_draws ..,
    (State.put_fault ..).trans hf, State.put_r .., State.put_tpc .., State.put_hist .., ?_⟩
  rw [State.put_hist]
  exact armcount_append_drop ..

/-- The arming, element by element (R110, R116). -/
theorem exec_armingOf_arms (hb : (s.chan c).busy d = false) :
    ∃ t, exec (armingOf d ch ptr len) s = .next t ∧
      t.chan c = ((s.chan c).setEngine d (Engine.armed ptr len)).setBusy d true ∧
      SameElsewhere c s t ∧ t.draws = s.draws ∧
      t.fault = none ∧ t.r = s.r ∧ t.tpc = s.tpc + 1 ∧ t.hist = s.hist ++ [.arm c d ptr len] :=
  ⟨_, exec_armingOf_idle hc hf hi h0 hl hb, State.put_chan_same .., State.put_sameElsewhere, State.put_draws ..,
    (State.put_fault ..).trans hf, State.put_r .., State.put_tpc .., State.put_hist ..⟩

end

end

/-! A byte that no receive asked for (R117). -/

/-- With no receive engaged an enabled `IrqRXNE` takes the byte and writes nothing else of the block (R175). -/
theorem exec_irqRXNE_discards {s : State} {ch : ChanId} {c : Chan} (hc : chanOfId ch = some c)
    (he : irqRXNEEnabled c s = true) (hr : (s.chan c).rx.run = false) :
    exec (.irqRXNE ch) s = .next
      (s.put c { s.chan c with rxne := false } s.mem s.tpc s.r [.irq c .rxne, .rxDiscard c (s.chan c).rdr] s.draws) := by
  obtain ⟨t, ht⟩ := exec_irqRXNE_next hc he
  rw [ht]
  cases exec_effect ht with
  | faulted _ _ _ hctx => cases hctx
  | rxStored _ c' hc' _ _ _ hr' | rxCompleted _ c' hc' _ _ _ hr' =>
    cases hc.symm.trans hc'
    exact absurd (hr.symm.trans hr') Bool.false_ne_true
  | rxDiscarded _ c' hc' =>
    cases hc.symm.trans hc'
    rfl

end Sys2Proof.Machine
end

section
/-! The statements of 41_send_receive.md. -/

namespace Sys2Proof.Safety

open Sys2Proof.Machine

/-- Settles O15: the arming of a direction, for the transmit one. -/
theorem sendArmsAnIdleDirection : Obligations.SendArmsAnIdleDirection :=
  fun _ _ _ _ _ hc _ hf hi h0 hl hb => exec_armingOf_arms (d := .tx) hc hf hi h0 hl hb

/-- Settles O16: the arming of a direction, for the receive one. -/
theorem receiveArmsAnIdleDirection : Obligations.ReceiveArmsAnIdleDirection :=
  fun _ _ _ _ _ hc _ hf hi h0 hl hb => exec_armingOf_arms (d := .rx) hc hf hi h0 hl hb

/-- Settles O17: the drop of a busy direction's request, for each direction. -/
theorem busyDirectionDropsTheRequest : Obligations.BusyDirectionDropsTheRequest :=
  fun _ _ _ _ _ hc _ hf hi h0 hl =>
    ⟨exec_armingOf_drops (d := .tx) hc hf hi h0 hl, exec_armingOf_drops (d := .rx) hc hf hi h0 hl⟩

/-- Settles O18: the length is checked first, then the buffer, and neither check asks for the flag. -/
theorem transferOperandFaultsInOrder : Obligations.TransferOperandFaultsInOrder := by
  intro s ch c ptr len hc _ hf hi
  have badLen (d : Dir) := exec_armingOf_faults hc hf hi (transferFault_of_len_zero c d ptr)
  have badBuf (h0 : len ≠ 0) (hl : 2 ^ 32 < ptr.toNat + len.toNat) (d : Dir) :=
    exec_armingOf_faults hc hf hi (transferFault_of_long h0 hl c d)
  exact ⟨badLen .tx, badLen .rx, fun h0 hl => ⟨badBuf h0 hl .tx, badBuf h0 hl .rx⟩⟩

/-- Settles O34: with no receive engaged the event is enabled at any address, and the byte is discarded. -/
theorem irqRXNEDiscardsAnUnsolicitedByte : Obligations.IrqRXNEDiscardsAnUnsolicitedByte := by
  intro s ch c hc _ hv hie hn hr
  exact ⟨_, exec_irqRXNE_discards hc ((irqRXNEEnabled_iff c s).2 ⟨hv, hie, hn, .inl hr⟩) hr, State.put_chan_same ..,
    State.put_sameElsewhere, State.put_taskSame, State.put_draws .., State.put_hist ..⟩

end Sys2Proof.Safety
end

section
/-! SUPPORT. The completion queries, for both directions at once, and the host branch with and without an answer in `R`
(42_queries.md). -/

namespace Sys2Proof.Machine

open Sys2Proof.Safety

/-- The query of a direction (R125, R126). -/
def queryOf (d : Dir) (ch : ChanId) : Instr :=
  match d with
  | .tx => .isSendComplete ch
  | .rx => .isReceiveComplete ch

section
variable {s : State} {ch : ChanId} {c : Chan} {d : Dir}

/-- A query writes its slot back as it was: only `tpc`, `R` and the history move. -/
theorem answerQuery_eq_put : answerQuery d c s =
    s.put c (s.chan c) s.mem (s.tpc + 1) (some !(s.chan c).busy d) [.query c d !(s.chan c).busy d] s.draws := by
  rw [answerQuery, responseBit_response]
  cases c <;> rfl

/-- A query on an initialized channel, element by element (R125, R126). -/
theorem exec_queryOf_answers (hc : chanOfId ch = some c) (hf : s.fault = none) (hi : (s.chan c).inited = true) :
    ∃ t, exec (queryOf d ch) s = .next t ∧ t.r = some (!(s.chan c).busy d) ∧
      (∀ c', t.chan c' = s.chan c') ∧ MemSame s t ∧ LaunchSame s t ∧ t.draws = s.draws ∧
      t.fault = none ∧ t.tpc = s.tpc + 1 ∧ t.hist = s.hist ++ [.query c d (!(s.chan c).busy d)] := by
  have hexec : exec (queryOf d ch) s = .next (answerQuery d c s) := by
    cases d <;> exact readyStep_of_ready hc hf hi _
  rw [answerQuery_eq_put] at hexec
  exact ⟨_, hexec, State.put_r .., fun c' => State.put_chan_self .., fun _ => by rw [State.put_mem],
    ⟨State.put_program .., State.put_schedule .., State.put_launch ..⟩, State.put_draws ..,
    (State.put_fault ..).trans hf, State.put_tpc .., State.put_hist ..⟩

end

section
variable {s : State} {target : Word}

/-- Before any query a branch is malformed, whatever its target (R127, R168). -/
theorem exec_brz_of_no_answer (hf : s.fault = none) (hr : s.r = none) :
    exec (.brz target) s = .next (Faulted (.illegal 0x20000000) s) := by
  rw [exec, execBrz, taskStep_of_none hf, ← raise_of_none hf]
  simp only [hr]

/-- After a query the target is checked first, and the branch is decided by the answer (R127). -/
theorem exec_brz_of_answer {bit : Bool} (hf : s.fault = none) (hr : s.r = some bit) :
    exec (.brz target) s = .next (
      if s.program.length < target.toNat then Faulted (.illegal 0x20000000) s
      else { s with tpc := if bit then s.tpc + 1 else target.toNat }) := by
  rw [exec, execBrz, taskStep_of_none hf, ← raise_of_none hf, State.advance, hr]
  cases bit <;> rfl

end

end Sys2Proof.Machine
end

section
/-! The statements of 42_queries.md. -/

namespace Sys2Proof.Safety

open Sys2Proof.Machine

/-- Settles O23: the answer of a direction's query, for each direction. -/
theorem queryAnswersTheNegatedFlag : Obligations.QueryAnswersTheNegatedFlag :=
  fun _ _ _ hc _ hf hi => ⟨exec_queryOf_answers (d := .tx) hc hf hi, exec_queryOf_answers (d := .rx) hc hf hi⟩

/-- Settles O24: after a query, a target up to the program's length passes the check. -/
theorem brzBranchesOnZero : Obligations.BrzBranchesOnZero := by
  intro s target bit hf hr ht
  rw [exec_brz_of_answer hf hr, if_neg (Nat.not_lt.2 ht)]

/-- Settles O25: without an answer the branch faults at once; with one, the target's check fails whatever the answer. -/
theorem malformedBrzIsIllegal : Obligations.MalformedBrzIsIllegal := by
  intro s target hf hbad
  cases hr : s.r with
  | none => exact exec_brz_of_no_answer hf hr
  | some bit =>
    have hout : s.program.length < target.toNat := hbad.resolve_left (by simp [hr])
    rw [exec_brz_of_answer hf hr, if_pos hout]

end Sys2Proof.Safety
end

section
/-! SUPPORT. The aborts, for both directions at once (43_abort.md). -/

namespace Sys2Proof.Machine

open Sys2Proof.Safety

/-- The slot of a channel whose direction `d` has been stopped: its engine disengaged, its flag cleared, and for the
transmit direction the pending event dropped; a byte waiting in `RDR` stays (R130, R131). -/
def ChanState.stopped (x : ChanState) (d : Dir) : ChanState :=
  match d with
  | .tx => { x with tx := { x.tx with run := false }, tc := false, txBusy := false }
  | .rx => { x with rx := { x.rx with run := false }, rxBusy := false }

section
variable {s : State} {ch : ChanId} {c : Chan} {d : Dir}

/-- An abort on an initialized channel stops its direction, whatever the flag (R130, R131). -/
theorem exec_abortOf (hc : chanOfId ch = some c) (hf : s.fault = none) (hi : (s.chan c).inited = true) :
    exec (abortOf d ch) s = .next
      (s.put c ((s.chan c).stopped d) s.mem (s.tpc + 1) s.r [.cancel c d] s.draws) := by
  cases d with
  | tx => rw [abortOf, exec, execAbortSend, readyStep_of_ready hc hf hi]; cases c <;> rfl
  | rx => rw [abortOf, exec, execAbortReceive, readyStep_of_ready hc hf hi]; cases c <;> rfl

/-- The abort, element by element (R130, R131, R159). -/
theorem exec_abortOf_stops (hc : chanOfId ch = some c) (hf : s.fault = none) (hi : (s.chan c).inited = true) :
    ∃ t, exec (abortOf d ch) s = .next t ∧
      t.chan c = (s.chan c).stopped d ∧
      SameElsewhere c s t ∧ t.draws = s.draws ∧
      t.fault = none ∧ t.r = s.r ∧ t.tpc = s.tpc + 1 ∧ t.hist = s.hist ++ [.cancel c d] ∧
      cancelcount c d t.hist = cancelcount c d s.hist + 1 := by
  refine ⟨_, exec_abortOf hc hf hi, State.put_chan_same .., State.put_sameElsewhere, State.put_draws ..,
    (State.put_fault ..).trans hf, State.put_r .., State.put_tpc .., State.put_hist .., ?_⟩
  rw [State.put_hist]
  exact cancelcount_append_cancel ..

end

end Sys2Proof.Machine
end

section
/-! The statements of 43_abort.md. -/

namespace Sys2Proof.Safety

open Sys2Proof.Machine

/-- Settles O26: the abort of a direction, for the transmit one. -/
theorem abortSendStopsTheTransmit : Obligations.AbortSendStopsTheTransmit :=
  fun _ _ _ hc _ hf hi => exec_abortOf_stops (d := .tx) hc hf hi

/-- Settles O27: the abort of a direction, for the receive one. -/
theorem abortReceiveStopsTheReceive : Obligations.AbortReceiveStopsTheReceive :=
  fun _ _ _ hc _ hf hi => exec_abortOf_stops (d := .rx) hc hf hi

end Sys2Proof.Safety
end

section
/-! SUPPORT. The arrival of a byte, the forced completions, and the terms that stop a direction: an abort and a forced
completion write the same slot, and stopping it twice is stopping it once (43_abort.md, 44_engine_events.md). -/

namespace Sys2Proof.Machine

open Sys2Proof.Safety

/-! The arrival of a byte, and the forced completions, for both directions at once. -/

section
variable {s : State} {ch : ChanId} {c : Chan} {d : Dir}

/-- With no byte pending the arriving one is latched (R137). -/
theorem exec_rxArrive_latches {b : Byte} (hc : chanOfId ch = some c) (hi : (s.chan c).inited = true)
    (hn : (s.chan c).rxne = false) :
    exec (.rxArrive ch b) s = .next
      (s.put c { s.chan c with rdr := b, rxne := true } s.mem s.tpc s.r [.rxArrive c b] s.draws) := by
  rw [exec, execRxArrive, eventStep_of_enabled (enabled := rxArriveEnabled) hc hi, hn]
  cases c <;> rfl

/-- A forced completion on an initialized channel stops its direction, whatever cursor, flag and `FAULT` hold (R139, R140,
R142). -/
theorem exec_forcedOf (hc : chanOfId ch = some c) (hi : (s.chan c).inited = true) :
    exec (forcedOf d ch) s = .next
      (s.put c ((s.chan c).stopped d) s.mem s.tpc s.r [.cplt c d] s.draws) := by
  have enabled : forceEnabled c s = true := hi
  cases d with
  | tx => rw [forcedOf, exec, execForceTxCplt, eventStep_of_enabled hc enabled]; cases c <;> rfl
  | rx => rw [forcedOf, exec, execForceRxCplt, eventStep_of_enabled hc enabled]; cases c <;> rfl

/-- The forced completion, element by element (R139, R140). -/
theorem exec_forcedOf_stops (hc : chanOfId ch = some c) (hi : (s.chan c).inited = true) :
    ∃ t, exec (forcedOf d ch) s = .next t ∧
      t.chan c = (s.chan c).stopped d ∧
      SameElsewhere c s t ∧ TaskSame s t ∧ t.draws = s.draws ∧ t.hist = s.hist ++ [.cplt c d] :=
  ⟨_, exec_forcedOf hc hi, State.put_chan_same .., State.put_sameElsewhere, State.put_taskSame, State.put_draws ..,
    State.put_hist ..⟩

end

/-! A stopped direction (R159). -/

section
variable (x : ChanState) (d : Dir)

@[simp] theorem ChanState.stopped_inited : (x.stopped d).inited = x.inited := by cases d <;> rfl
@[simp] theorem ChanState.stopped_busy : (x.stopped d).busy d = false := by cases d <;> rfl
@[simp] theorem ChanState.stopped_run : ((x.stopped d).engine d).run = false := by cases d <;> rfl
@[simp] theorem ChanState.stopped_stopped : (x.stopped d).stopped d = x.stopped d := by cases d <;> rfl

end

/-- The term stops direction `d`: its abort or its forced completion. -/
def Stops (d : Dir) (ch : ChanId) (i : Instr) : Prop := i = abortOf d ch ∨ i = forcedOf d ch

section
variable {s t : State} {ch : ChanId} {c : Chan} {d : Dir} {i : Instr} (h : Stops d ch i) (hc : chanOfId ch = some c)
include h hc

/-- A stop that raised no fault ran on an initialized channel, and an abort without a fault pending. -/
theorem Stops.ready (hf : t.fault = s.fault) (ht : exec i s = .next t) :
    (s.chan c).inited = true ∧ (i.context = .task → s.fault = none) := by
  obtain rfl | rfl := h
  · obtain ⟨body, hbody⟩ : ∃ body, exec (abortOf d ch) s = taskStep (withReadyChan ch body) s := by
      cases d <;> exact ⟨_, rfl⟩
    obtain ⟨hnone, ⟨f, rfl⟩ | ⟨c', hc', hi, -⟩⟩ := readyStep_next (hbody.symm.trans ht)
    · exact absurd (hf.trans hnone) (Option.some_ne_none f)
    · cases hc.symm.trans hc'
      exact ⟨hi, fun _ => hnone⟩
  · obtain ⟨body, hbody⟩ :=
      exec_eq_eventStep (i := forcedOf d ch) (ch := ch) (by cases d <;> rfl) (by cases d <;> rfl)
    obtain ⟨c', hc', henabled, -⟩ := eventStep_next ((hbody s).symm.trans ht)
    cases hc.symm.trans hc'
    exact ⟨by cases d <;> exact henabled, fun hctx => by cases d <;> cases hctx⟩

/-- Under those conditions a stop runs, and writes the stopped slot. -/
theorem Stops.runs (hi : (s.chan c).inited = true) (hf : i.context = .task → s.fault = none) :
    ∃ t, exec i s = .next t ∧ t.chan c = (s.chan c).stopped d ∧ SameElsewhere c s t := by
  obtain rfl | rfl := h
  · obtain ⟨t, ht, hslot, hsame, -⟩ := exec_abortOf_stops (d := d) hc (hf (by cases d <;> rfl)) hi
    exact ⟨t, ht, hslot, hsame⟩
  · obtain ⟨t, ht, hslot, hsame, -⟩ := exec_forcedOf_stops (d := d) hc hi
    exact ⟨t, ht, hslot, hsame⟩

/-- A stop that raised no fault clears the flag, disengages the engine, and runs again to no effect on a channel or on
memory (R159). -/
theorem Stops.idempotent (hf : t.fault = s.fault) (ht : exec i s = .next t) :
    ((t.chan c).busy d = false ∧ ((t.chan c).engine d).run = false) ∧
      ∃ u, exec i t = .next u ∧ (∀ c', u.chan c' = t.chan c') ∧ MemSame t u := by
  obtain ⟨hi, hnone⟩ := h.ready hc hf ht
  obtain ⟨t', ht', hslot, -⟩ := h.runs hc hi hnone
  cases ht.symm.trans ht'
  obtain ⟨u, hu, hslot', hother, hmem, -⟩ :=
    h.runs (s := t) hc (by simpa [hslot] using hi) fun hctx => hf.trans (hnone hctx)
  refine ⟨by simp [hslot], u, hu, fun c' => ?_, hmem⟩
  by_cases hne : c' = c
  · rw [hne, hslot', hslot, ChanState.stopped_stopped]
  · exact hother c' hne

end

end Sys2Proof.Machine
end

section
/-! SUPPORT. The two events that take one byte of a transmit out, as steps of a schedule, and the run that alternates them
(R135, R174, R212). -/

namespace Sys2Proof.Machine

open Sys2Proof.Safety

/-! The slot after each of the two. -/

/-- The slot after byte `b` went to the line: its event is pending (R135). -/
def ChanState.emitted (x : ChanState) (b : Byte) : ChanState := { x with txLine := x.txLine ++ [b], tc := true }

/-- The slot of an engaged transmit whose event has been served: the cursor advanced, and on the last byte the engine
disengaged and the flag clear (R174). -/
def ChanState.served (x : ChanState) : ChanState :=
  if x.tx.cur + 1 = x.tx.len then
    { x with tc := false, tx := { x.tx with cur := x.tx.cur + 1, run := false }, txBusy := false }
  else { x with tc := false, tx := { x.tx with cur := x.tx.cur + 1 } }

theorem ChanState.served_of_last {x : ChanState} (h : x.tx.cur + 1 = x.tx.len) :
    x.served = { x with tc := false, tx := { x.tx with cur := x.tx.cur + 1, run := false }, txBusy := false } :=
  if_pos h

theorem ChanState.served_of_short {x : ChanState} (h : x.tx.cur + 1 ≠ x.tx.len) :
    x.served = { x with tc := false, tx := { x.tx with cur := x.tx.cur + 1 } } :=
  if_neg h

@[simp] theorem ChanState.served_txLine (x : ChanState) : x.served.txLine = x.txLine := by
  unfold ChanState.served
  split <;> rfl

@[simp] theorem ChanState.served_ptr (x : ChanState) : x.served.tx.ptr = x.tx.ptr := by
  unfold ChanState.served
  split <;> rfl

@[simp] theorem ChanState.served_cur (x : ChanState) : x.served.tx.cur = x.tx.cur + 1 := by
  unfold ChanState.served
  split <;> rfl

section
variable {s : State} {ch : ChanId} {c : Chan} (hc : chanOfId ch = some c)
include hc

/-- An enabled `TxEmit` puts the byte at the cursor on the line (R135). -/
theorem exec_txEmit_emits (he : txEmitEnabled c s = true) :
    exec (.txEmit ch) s = .next
      (s.put c ((s.chan c).emitted (s.mem.read (s.chan c).tx.address)) s.mem s.tpc s.r
        [.txByte c (s.mem.read (s.chan c).tx.address)] s.draws) := by
  rw [exec, execTxEmit, eventStep_of_enabled hc he]
  cases c <;> rfl

/-- With a transmit engaged an enabled `IrqTC` serves the event of its byte (R174). -/
theorem exec_irqTC_serves (he : irqTCEnabled c s = true) (hr : (s.chan c).tx.run = true) :
    ∃ es, exec (.irqTC ch) s = .next (s.put c (s.chan c).served s.mem s.tpc s.r es s.draws) := by
  obtain ⟨t, ht⟩ : ∃ t, exec (.irqTC ch) s = .next t := ⟨_, (eventStep_of_enabled hc he _ : execIrqTC ch s = _)⟩
  rw [ht]
  cases exec_effect ht with
  | faulted _ _ _ hctx => cases hctx
  | txAdvanced _ c' hc' _ _ _ _ hshort =>
    cases hc.symm.trans hc'
    exact ⟨_, by rw [ChanState.served_of_short hshort]⟩
  | txCompleted _ c' hc' _ _ _ _ hlast =>
    cases hc.symm.trans hc'
    exact ⟨_, by rw [ChanState.served_of_last hlast]⟩
  | txSpurious _ c' hc' _ _ _ hidle =>
    cases hc.symm.trans hc'
    exact absurd (hidle.symm.trans hr) Bool.false_ne_true

end

/-! The two as steps of a schedule. -/

/-- A step whose line encodes an event runs the event, with the line taken (R89, R91). -/
theorem step_event_encode {s : State} {rest : List Line} {i : Instr} (hi : i.isEvent = true)
    (hs : s.schedule = .event (encode i) :: rest) : step s = exec i { s with schedule := rest } :=
  eventLineRunsTheEvent s rest _ i hs (decodeOn_ok_iff.2 ⟨decodeOfEncodeIsTheTerm i, hi⟩)

/-- A run makes its first step first. -/
theorem run_succ_of_step {s t : State} (h : step s = .next t) (n : Nat) :
    Host.Core.run Sys2Proof.core (n + 1) s = Host.Core.run Sys2Proof.core n t := by
  have hstep : Sys2Proof.core.step s = .next t := h
  simp only [Host.Core.run, hstep]

/-- `t` is a state after the lines before `rest`, with the memory and the launch parameters of `s`. -/
structure LinesTaken (rest : List Line) (s t : State) : Prop where
  schedule : t.schedule = rest
  mem : t.mem = s.mem
  launch : t.launch = s.launch

section
variable {s : State} {c : Chan} {rest : List Line}

theorem step_txEmit_line (hs : s.schedule = .event (encode (.txEmit (idOfChan c))) :: rest)
    (he : txEmitEnabled c s = true) :
    ∃ t, step s = .next t ∧ LinesTaken rest s t ∧
      t.chan c = (s.chan c).emitted (s.mem.read (s.chan c).tx.address) := by
  have he' : txEmitEnabled c { s with schedule := rest } = true := by cases c <;> exact he
  refine ⟨_, (step_event_encode rfl hs).trans (exec_txEmit_emits (chanOfId_idOfChan c) he'),
    ⟨State.put_schedule .., State.put_mem .., State.put_launch ..⟩, ?_⟩
  rw [State.put_chan_same, State.chan_withSchedule]

theorem step_irqTC_line (hs : s.schedule = .event (encode (.irqTC (idOfChan c))) :: rest)
    (he : irqTCEnabled c s = true) (hr : (s.chan c).tx.run = true) :
    ∃ t, step s = .next t ∧ LinesTaken rest s t ∧ t.chan c = (s.chan c).served := by
  have hslot : State.chan { s with schedule := rest } c = s.chan c := State.chan_withSchedule s rest c
  obtain ⟨es, hexec⟩ := exec_irqTC_serves (s := { s with schedule := rest }) (chanOfId_idOfChan c)
    (by cases c <;> exact he) (by rw [hslot]; exact hr)
  refine ⟨_, (step_event_encode rfl hs).trans hexec,
    ⟨State.put_schedule .., State.put_mem .., State.put_launch ..⟩, ?_⟩
  rw [State.put_chan_same, hslot]

end

/-! A transmit with `k` bytes left. -/

/-- A transmit is engaged with `k` bytes left and no event pending, on a slot whose transmit interrupt is enabled. -/
structure ChanState.Sending (x : ChanState) (k : Nat) : Prop where
  inited : x.inited = true
  ven : x.ven = true
  ieTc : x.ieTc = true
  run : x.tx.run = true
  idle : x.tc = false
  left : x.tx.cur.toNat + k = x.tx.len.toNat

/-- A transmit has `k` bytes left to send: it is engaged, or with none left its flag is clear. -/
def ChanState.BytesLeft (x : ChanState) : Nat → Prop
  | 0 => x.txBusy = false
  | k + 1 => x.Sending (k + 1)

/-- By the invariant an engaged transmit is one of an initialized channel. -/
theorem ChanState.inited_of_tx_run {x : ChanState} (hok : ChanOk x) (hr : x.tx.run = true) : x.inited = true := by
  refine Bool.eq_true_of_not_eq_false fun hi => ?_
  obtain ⟨hidle, -⟩ := hok.inert hi
  exact Bool.noConfusion (hidle.symm.trans hr)

/-- By the invariant an armed transmit without a pending event has the bytes from its cursor to its length left. -/
theorem ChanState.bytesLeft_of_ok {x : ChanState} {k : Nat} (hok : ChanOk x) (hr : x.tx.run = true) (htc : x.tc = false)
    (hleft : x.tx.cur.toNat + k = x.tx.len.toNat) : x.BytesLeft k := by
  cases k with
  | zero =>
    obtain ⟨-, hlt, -⟩ := hok.txEngine hr
    omega
  | succ k =>
    have hinited := ChanState.inited_of_tx_run hok hr
    obtain ⟨-, hie, hven⟩ := hok.enabled hinited
    exact ⟨hinited, hven, hie, hr, htc, hleft⟩

section
variable {x : ChanState} {k : Nat} (h : x.Sending (k + 1))
include h

/-- Short of its length the cursor does not wrap, so the next byte is at the next address. -/
theorem ChanState.Sending.cur_succ : (x.tx.cur + 1).toNat = x.tx.cur.toNat + 1 := by
  have := h.left
  bv_omega

theorem ChanState.Sending.served_address (b : Byte) : (x.emitted b).served.tx.address = x.tx.address + 1 := by
  rw [Engine.address, ChanState.served_ptr, ChanState.served_cur]
  exact congrArg (x.tx.ptr.toNat + ·) h.cur_succ

/-- Sending a byte and serving its event leaves one byte less. -/
theorem ChanState.Sending.served_bytesLeft (b : Byte) : (x.emitted b).served.BytesLeft k := by
  have hleft : (x.tx.cur + 1).toNat + k = x.tx.len.toNat := by
    rw [h.cur_succ, ← h.left]
    omega
  cases k with
  | zero =>
    have hlast : x.tx.cur + 1 = x.tx.len := BitVec.eq_of_toNat_eq hleft
    rw [ChanState.served_of_last (x := x.emitted b) hlast]
    rfl
  | succ k =>
    have hshort : x.tx.cur + 1 ≠ x.tx.len := fun hlast => by
      rw [hlast] at hleft
      omega
    rw [ChanState.served_of_short (x := x.emitted b) hshort]
    exact ⟨h.inited, h.ven, h.ieTc, h.run, rfl, hleft⟩

end

/-- The two lines that take one byte of channel `c` out. -/
def byteLines (c : Chan) : List Line :=
  [.event (encode (.txEmit (idOfChan c))), .event (encode (.irqTC (idOfChan c)))]

/-- The two lines take one byte of a transmit out. -/
theorem steps_byteLines {s : State} {c : Chan} {k : Nat} {rest : List Line} (h : (s.chan c).Sending (k + 1))
    (ha : s.admitted (s.chan c).tx.address = true) (hs : s.schedule = byteLines c ++ rest) :
    ∃ u t, step s = .next u ∧ step u = .next t ∧ LinesTaken rest s t ∧
      t.chan c = ((s.chan c).emitted (s.mem.read (s.chan c).tx.address)).served := by
  obtain ⟨u, hu, htaken, hslot⟩ :=
    step_txEmit_line hs ((txEmitEnabled_iff c s).2 ⟨h.inited, h.run, h.idle, ha⟩)
  obtain ⟨t, ht, htaken', hslot'⟩ := step_irqTC_line htaken.schedule
    ((irqTCEnabled_iff c u).2 (by rw [hslot]; exact ⟨h.ven, h.ieTc, rfl⟩)) (by rw [hslot]; exact h.run)
  exact ⟨u, t, hu, ht, ⟨htaken'.schedule, htaken'.mem.trans htaken.mem, htaken'.launch.trans htaken.launch⟩,
    hslot'.trans (by rw [hslot])⟩

/-- The bytes left are taken out in order, by their two lines each. -/
theorem run_byteLines {s : State} {c : Chan} {k : Nat} {rest : List Line} (h : (s.chan c).BytesLeft k)
    (ha : ∀ i, i < k → s.admitted ((s.chan c).tx.address + i) = true)
    (hs : s.schedule = (List.replicate k (byteLines c)).flatten ++ rest) :
    ∃ t, Host.Core.run Sys2Proof.core (2 * k) s = .next t ∧ (t.chan c).txBusy = false ∧ t.schedule = rest ∧
      (t.chan c).txLine =
        (s.chan c).txLine ++ (List.range k).map (fun i => s.mem.read ((s.chan c).tx.address + i)) := by
  induction k generalizing s with
  | zero => exact ⟨s, rfl, h, hs, (List.append_nil _).symm⟩
  | succ k ih =>
    rw [List.replicate_succ, List.flatten_cons, List.append_assoc] at hs
    obtain ⟨u, t, hu, ht, htaken, hslot⟩ := steps_byteLines h (ha 0 k.succ_pos) hs
    have haddr : ∀ i, (t.chan c).tx.address + i = (s.chan c).tx.address + (i + 1) := fun i => by
      rw [hslot, ChanState.Sending.served_address h]
      omega
    obtain ⟨v, hv, hclear, hrest, hline⟩ := ih (by rw [hslot]; exact ChanState.Sending.served_bytesLeft h _)
      (fun i hi => by rw [haddr, admitted_congr htaken.launch]; exact ha _ (Nat.succ_lt_succ hi)) htaken.schedule
    refine ⟨v, ?_, hclear, hrest, ?_⟩
    · rw [Nat.mul_succ, run_succ_of_step hu, run_succ_of_step ht]
      exact hv
    · have hfirst : (t.chan c).txLine = (s.chan c).txLine ++ [s.mem.read (s.chan c).tx.address] := by
        rw [hslot, ChanState.served_txLine]
        rfl
      rw [hline, hfirst, htaken.mem, List.range_succ_eq_map]
      simp [haddr, Function.comp_def]

end Sys2Proof.Machine
end

section
/-! The statements of 44_engine_events.md. -/

namespace Sys2Proof.Safety

open Sys2Proof.Machine

/-- Settles O29: the arrival, element by element. -/
theorem rxArriveLatchesTheByte : Obligations.RxArriveLatchesTheByte :=
  fun _ _ _ _ hc _ hi hn => ⟨_, exec_rxArrive_latches hc hi hn, State.put_chan_same .., State.put_sameElsewhere,
    State.put_taskSame, State.put_draws .., State.put_hist ..⟩

/-- Settles O31: the forced completion of a direction, for each direction. -/
theorem forcedCompletionClearsItsFlag : Obligations.ForcedCompletionClearsItsFlag :=
  fun _ _ _ hc _ hi => ⟨exec_forcedOf_stops (d := .tx) hc hi, exec_forcedOf_stops (d := .rx) hc hi⟩

/-- Settles O54: each of the four terms stops one direction. -/
theorem abortAndCompletionAreIdempotent : Obligations.AbortAndCompletionAreIdempotent := by
  intro s t ch c i hc _ hf hi ht
  have tx : i = .abortSend ch ∨ i = .forceTxCplt ch → Stops .tx ch i := id
  have rx : i = .abortReceive ch ∨ i = .forceRxCplt ch → Stops .rx ch i := id
  have stops : ∃ d, Stops d ch i := by
    simp only [List.mem_cons, List.not_mem_nil, or_false] at hi
    obtain h | h | h | h := hi
    · exact ⟨.tx, .inl h⟩
    · exact ⟨.rx, .inl h⟩
    · exact ⟨.tx, .inr h⟩
    · exact ⟨.rx, .inr h⟩
  obtain ⟨d, hstop⟩ := stops
  exact ⟨fun h => ((tx h).idempotent hc hf ht).1, fun h => ((rx h).idempotent hc hf ht).1,
    (hstop.idempotent hc hf ht).2⟩

/-- Settles O60: the two lines of each byte left take it out, and the flag is clear when none is left. -/
theorem armedTransmitCanBeRunToItsEnd : Obligations.ArmedTransmitCanBeRunToItsEnd := by
  intro s c k rest hready hinv hr htc hleft hadm hs
  have hbytes : (s.chan c).BytesLeft k := ChanState.bytesLeft_of_ok (hinv.chans c hready) hr htc hleft
  refine run_byteLines hbytes (fun i hi => ?_) hs
  rw [Engine.address, Nat.add_assoc]
  exact hadm _ (by omega)

end Sys2Proof.Safety
end

section
/-! SUPPORT. The invariant of a channel's slot under each change a step can make to it, and one step of the machine under the
invariant (45_state_machine.md section 2). -/

namespace Sys2Proof.Safety

open Sys2Proof.Machine

/-! Engines (R151). -/

/-- What the arming checks pass is a well-formed engine (R166, R167). -/
theorem engineOk_armed {ptr len : Word} (h0 : len ≠ 0) (hl : ptr.toNat + len.toNat ≤ 2 ^ 32) :
    EngineOk (Engine.armed ptr len) := by
  have hpos : 1 ≤ len.toNat := Nat.pos_of_ne_zero fun h => h0 (BitVec.eq_of_toNat_eq h)
  exact fun _ => ⟨hpos, hpos, hl⟩

/-- A disengaged engine is well formed whatever its registers hold. -/
theorem engineOk_of_disengaged {e : Engine} (h : e.run = false) : EngineOk e := fun hr => nomatch h.symm.trans hr

/-! The changes of a slot. -/

theorem chanOk_reset : ChanOk ChanState.reset where
  txFlag := rfl
  rxFlag := rfl
  txEngine := engineOk_of_disengaged rfl
  rxEngine := engineOk_of_disengaged rfl
  txPending := fun htc => nomatch htc
  inert := fun _ => ⟨rfl, rfl, rfl, rfl, rfl, rfl⟩
  enabled := fun hi => nomatch hi

section
variable {x : ChanState} (h : ChanOk x)
include h

theorem ChanOk.initialised (hi : x.inited = false) (baud : Word) : ChanOk (x.initialised baud) := by
  obtain ⟨htx, hrx, -⟩ := h.inert hi
  exact { h with
    txFlag := htx.symm, rxFlag := hrx.symm
    inert := fun hi' => nomatch hi'
    enabled := fun _ => ⟨rfl, rfl, rfl⟩ }

/-- Only an initialized channel has its vector registered (R153). -/
theorem ChanOk.inited_of_ven (hv : x.ven = true) : x.inited = true := by
  refine Bool.eq_true_of_not_eq_false fun hi => ?_
  obtain ⟨-, -, -, -, -, hven⟩ := h.inert hi
  cases hven.symm.trans hv

theorem ChanOk.emitted (hr : x.tx.run = true) (b : Byte) : ChanOk (x.emitted b) :=
  { h with txPending := fun _ => hr }

theorem ChanOk.acknowledged : ChanOk { x with tc := false } :=
  { h with txPending := fun htc => nomatch htc }

section
variable (hi : x.inited = true)
include hi

theorem ChanOk.txArmed {ptr len : Word} (h0 : len ≠ 0) (hl : ptr.toNat + len.toNat ≤ 2 ^ 32) :
    ChanOk { x with tx := Engine.armed ptr len, txBusy := true } :=
  { h with
    txFlag := rfl, txEngine := engineOk_armed h0 hl, txPending := fun _ => rfl
    inert := fun hi' => nomatch hi'.symm.trans hi }

theorem ChanOk.rxArmed {ptr len : Word} (h0 : len ≠ 0) (hl : ptr.toNat + len.toNat ≤ 2 ^ 32) :
    ChanOk { x with rx := Engine.armed ptr len, rxBusy := true } :=
  { h with
    rxFlag := rfl, rxEngine := engineOk_armed h0 hl
    inert := fun hi' => nomatch hi'.symm.trans hi }

/-- An abort and a forced completion stop a direction, wherever its cursor stands. -/
theorem ChanOk.stopped (d : Dir) : ChanOk (x.stopped d) := by
  cases d with
  | tx => exact { h with
      txFlag := rfl, txEngine := engineOk_of_disengaged rfl, txPending := fun htc => nomatch htc
      inert := fun hi' => nomatch hi'.symm.trans hi }
  | rx => exact { h with
      rxFlag := rfl, rxEngine := engineOk_of_disengaged rfl
      inert := fun hi' => nomatch hi'.symm.trans hi }

/-- A transmit event served: short of the last byte the engine stays well formed, on the last one it is disengaged. -/
theorem ChanOk.served (hr : x.tx.run = true) : ChanOk x.served := by
  by_cases hl : x.tx.cur + 1 = x.tx.len
  · rw [ChanState.served_of_last hl]
    exact { h with
      txFlag := rfl, txEngine := engineOk_of_disengaged rfl, txPending := fun htc => nomatch htc
      inert := fun hi' => nomatch hi'.symm.trans hi }
  · rw [ChanState.served_of_short hl]
    exact { h with
      txEngine := (engineOk_advance h.txEngine hr hl).1, txPending := fun htc => nomatch htc
      inert := fun hi' => nomatch hi'.symm.trans hi }

/-- Whatever the receive register, its pending bit and the overrun mark hold. -/
theorem ChanOk.received (b : Byte) (rxne ovr : Bool) : ChanOk { x with rdr := b, rxne := rxne, ovr := ovr } :=
  { h with inert := fun hi' => nomatch hi'.symm.trans hi }

theorem ChanOk.rxAdvanced (hr : x.rx.run = true) (hl : x.rx.cur + 1 ≠ x.rx.len) :
    ChanOk { x with rxne := false, rx := { x.rx with cur := x.rx.cur + 1 } } :=
  { h with
    rxEngine := (engineOk_advance h.rxEngine hr hl).1
    inert := fun hi' => nomatch hi'.symm.trans hi }

theorem ChanOk.rxCompleted :
    ChanOk { x with rxne := false, rx := { x.rx with cur := x.rx.cur + 1, run := false }, rxBusy := false } :=
  { h with
    rxFlag := rfl, rxEngine := engineOk_of_disengaged rfl
    inert := fun hi' => nomatch hi'.symm.trans hi }

end
end

end Sys2Proof.Safety

namespace Sys2Proof.Machine

open Sys2Proof.Safety

/-! An instruction and a step. -/

theorem State.put_chanOk {s : State} {c : Chan} {x : ChanState} {m : Memory} {tpc : Nat} {r : Option Bool}
    {es : List Event} {n : Nat} (hx : ChanOk (s.chan c) → ChanOk x) (c' : Chan) :
    ChanOk (s.chan c') → ChanOk ((s.put c x m tpc r es n).chan c') :=
  State.put_chan_rel (R := fun y z => ChanOk y → ChanOk z) hx (fun _ => id) c'

/-- An instruction keeps the invariant of every channel. -/
theorem Effect.chanOk {s t : State} {i : Instr} (he : Effect s i t) (c : Chan) :
    ChanOk (s.chan c) → ChanOk (t.chan c) := by
  cases he with
  | faulted => rw [Faulted_chan]; exact id
  | branched => rw [State.chan_mk]; exact id
  | initialised _ _ baud _ _ hi => exact State.put_chanOk (fun h => h.initialised hi baud) c
  | sendArmed _ _ _ _ _ _ hi h0 hl => exact State.put_chanOk (fun h => h.txArmed hi h0 hl) c
  | receiveArmed _ _ _ _ _ _ hi h0 hl => exact State.put_chanOk (fun h => h.rxArmed hi h0 hl) c
  | sendDropped | receiveDropped | sendAnswered | receiveAnswered => exact State.put_chanOk id c
  | sendAborted _ _ _ _ hi | txForced _ _ _ hi => exact State.put_chanOk (fun h => h.stopped hi .tx) c
  | receiveAborted _ _ _ _ hi | rxForced _ _ _ hi => exact State.put_chanOk (fun h => h.stopped hi .rx) c
  | emitted _ _ _ _ hr => exact State.put_chanOk (fun h => h.emitted hr _) c
  | arrived _ _ _ _ hi | overran _ _ _ _ hi => exact State.put_chanOk (fun h => h.received hi _ _ _) c
  | txAdvanced _ _ _ hv _ _ hr hl =>
    exact State.put_chanOk (fun h => ChanState.served_of_short hl ▸ h.served (h.inited_of_ven hv) hr) c
  | txCompleted _ _ _ hv _ _ hr hl =>
    exact State.put_chanOk (fun h => ChanState.served_of_last hl ▸ h.served (h.inited_of_ven hv) hr) c
  | txSpurious => exact State.put_chanOk (fun h => h.acknowledged) c
  | rxStored _ _ _ hv _ _ hr _ hl => exact State.put_chanOk (fun h => h.rxAdvanced (h.inited_of_ven hv) hr hl) c
  | rxCompleted _ _ _ hv => exact State.put_chanOk (fun h => h.rxCompleted (h.inited_of_ven hv)) c
  | rxDiscarded _ _ _ hv => exact State.put_chanOk (fun h => h.received (h.inited_of_ven hv) _ _ _) c

/-- `tpc` stays within the program: a statement runs below its end, and a branch checks its target (R45, R127). -/
theorem Effect.tpc_le {s t : State} {i : Instr} (he : Effect s i t) (h : s.tpc ≤ s.program.length)
    (hi : i.isStatement = true → s.tpc < s.program.length) : t.tpc ≤ s.program.length := by
  cases he with
  | faulted => exact h
  | branched target bit _ _ ht =>
    cases bit with
    | true => exact hi rfl
    | false => exact ht
  | initialised | sendDropped | sendArmed | receiveDropped | receiveArmed | sendAnswered | receiveAnswered | sendAborted
  | receiveAborted => rw [State.put_tpc]; exact hi rfl
  | _ => rw [State.put_tpc]; exact h

/-- A step writes no launch parameter, the launch premise among them (R196). -/
theorem step_launch {s t : State} (h : step s = .next t) : t.launch = s.launch := by
  obtain ⟨-, hlaunch, -⟩ := programAndLaunchNeverChange s t h
  exact hlaunch

theorem step_pinsClocksReady {s t : State} (h : step s = .next t) (c : Chan) :
    t.pinsClocksReady c = s.pinsClocksReady c := by
  rw [State.pinsClocksReady, step_launch h, State.pinsClocksReady]

theorem step_chanOk {s t : State} {c : Chan} (h : step s = .next t) (hok : ChanOk (s.chan c)) : ChanOk (t.chan c) := by
  obtain hsame | ⟨l, rest, i, -, -, -, he⟩ := step_chan_cases h c
  · rwa [hsame]
  · exact he.chanOk c (by rwa [State.chan_withSchedule s rest])

theorem step_tpc_le {s t : State} (h : step s = .next t) (htpc : s.tpc ≤ s.program.length) :
    t.tpc ≤ t.program.length := by
  obtain ⟨hprogram, -⟩ := programAndLaunchNeverChange s t h
  rw [hprogram]
  obtain ⟨l, rest, -, ⟨i, -, hl, he⟩ | ⟨p, -, -, rfl⟩ | ⟨a, v, -, rfl⟩⟩ := step_effect h
  · refine he.tpc_le htpc fun hstatement => ?_
    obtain ⟨-, -, hlt, -⟩ | ⟨-, -, -, hevent⟩ := fetchLine_ok hl
    · exact hlt
    · rw [Instr.isStatement, hevent] at hstatement
      cases hstatement
  · exact htpc
  · exact htpc

end Sys2Proof.Machine
end

section
/-! The invariant of the machine (45_state_machine.md section 2). -/

namespace Sys2Proof.Safety

open Sys2Proof.Machine

/-- Settles O38: the reset slots are idle, and no transmit is engaged. -/
theorem resetMeetsTheInvariant : Obligations.ResetMeetsTheInvariant := by
  have hslot : ∀ c, State.reset.chan c = ChanState.reset := fun c => by cases c <;> rfl
  refine ⟨⟨fun c _ => ?_, reset_mem_wf, Nat.le_refl 0⟩, fun c _ hr => ?_⟩
  · rw [hslot]; exact chanOk_reset
  · rw [hslot] at hr; cases hr

/-- Settles O39: slot by slot, memory and `tpc`. -/
theorem stepKeepsTheInvariant : Obligations.StepKeepsTheInvariant := fun _ _ hinv hstep =>
  { chans := fun c hready => step_chanOk hstep (hinv.chans c (step_pinsClocksReady hstep c ▸ hready))
    mem := step_mem_wf hstep hinv.mem
    tpc := step_tpc_le hstep hinv.tpc }

end Sys2Proof.Safety
end

section
/-! SUPPORT. What a step does to the transmit side of one channel, said once, and the account of the bytes it hands to the line
(R154). -/

namespace Sys2Proof.Machine

open Sys2Proof.Safety

/-! Events that say nothing of a channel's transmit side. -/

/-- None of the events arms a transmit of channel `c`, hands a byte to its line or serves its transmit interrupt. -/
def TxQuiet (c : Chan) (es : List Event) : Prop := ∀ e ∈ es, e.isArm c .tx = false ∧ e.isTransmit c = false

@[simp] theorem txQuiet_nil (c : Chan) : TxQuiet c [] := fun _ he => nomatch he

@[simp] theorem txQuiet_cons (c : Chan) (e : Event) (es : List Event) :
    TxQuiet c (e :: es) ↔ (e.isArm c .tx = false ∧ e.isTransmit c = false) ∧ TxQuiet c es :=
  List.forall_mem_cons

theorem TxQuiet.filter_eq_nil {c : Chan} {es : List Event} (h : TxQuiet c es) :
    es.filter (Event.isTransmit c) = [] :=
  List.filter_eq_nil_iff.2 fun e he htrue => Bool.noConfusion ((h e he).2.symm.trans htrue)

@[simp] theorem txSinceArm_append_arm (c : Chan) (h : List Event) (ptr len : Word) :
    txSinceArm c (h ++ [.arm c .tx ptr len]) = [] := by
  simp [txSinceArm]

@[simp] theorem txSinceArm_append_txByte (c : Chan) (h : List Event) (b : Byte) :
    txSinceArm c (h ++ [.txByte c b]) = txSinceArm c h ++ [b] := by
  simp [txSinceArm]

@[simp] theorem txSinceArm_append_irq (c c' : Chan) (h : List Event) (src : IrqSource) :
    txSinceArm c (h ++ [.irq c' src]) = txSinceArm c h := by
  simp [txSinceArm]

theorem txSinceArm_append_quiet {c : Chan} {es : List Event} (hq : TxQuiet c es) (h : List Event) :
    txSinceArm c (h ++ es) = txSinceArm c h := by
  induction es generalizing h with
  | nil => rw [List.append_nil]
  | cons e es ih =>
    obtain ⟨hhead, htail⟩ := (txQuiet_cons c e es).1 hq
    have hone : txSinceArm c (h ++ [e]) = txSinceArm c h := by
      obtain ⟨harm, htransmit⟩ := hhead
      cases e with
      | arm c' d =>
        cases d with
        | tx => simp [txSinceArm, show c' ≠ c by simpa [Event.isArm] using harm]
        | rx => simp [txSinceArm]
      | txByte c' b => simp [txSinceArm, show c' ≠ c by simpa [Event.isTransmit] using htransmit]
      | _ => simp [txSinceArm]
    rw [← hone, ← ih htail (h ++ [e]), List.append_assoc]
    rfl

/-! One step. -/

/-- What a step can do to the transmit side of channel `c`: slot `x` becomes `y`, memory `m` stood before, `es` is logged. -/
inductive TxStep (c : Chan) (m : Memory) (x : ChanState) : List Event → ChanState → Prop where
  | kept {es : List Event} {y : ChanState} (hes : TxQuiet c es) (hy : TxSame x y) : TxStep c m x es y
  | ended {es : List Event} {y : ChanState} (hy : y.txBusy = false) : TxStep c m x es y
  | armed {y : ChanState} (ptr len : Word) (hb : x.txBusy = false) (hy : y.tx = Engine.armed ptr len) (htc : y.tc = x.tc) :
      TxStep c m x [.arm c .tx ptr len] y
  | emitted (hr : x.tx.run = true) (htc : x.tc = false) :
      TxStep c m x [.txByte c (m.read x.tx.address)] (x.emitted (m.read x.tx.address))
  | served {es : List Event} (hr : x.tx.run = true) (htc : x.tc = true) (hes : TxQuiet c es) :
      TxStep c m x (.irq c .tc :: es) x.served

/-- The step from `s` to `t`, as one of the transmit side of channel `c`. -/
def TxStepped (c : Chan) (s t : State) : Prop :=
  ∃ es, t.hist = s.hist ++ es ∧ TxStep c s.mem (s.chan c) es (t.chan c)

/-- The form `State.put`: the channel's own step, and events of no other channel. -/
theorem State.put_txStepped {s : State} {c c' : Chan} {x : ChanState} {m : Memory} {tpc : Nat} {r : Option Bool}
    {es : List Event} {n : Nat} (own : c' = c → TxStep c s.mem (s.chan c) es x) (other : c' ≠ c → TxQuiet c' es) :
    TxStepped c' s (s.put c x m tpc r es n) := by
  refine ⟨es, State.put_hist .., ?_⟩
  by_cases h : c' = c
  · subst h; rw [State.put_chan_same]; exact own rfl
  · rw [State.put_chan_other _ _ _ _ _ _ _ _ _ h]; exact .kept (other h) (.refl _)

/-- What an instruction does to the transmit side of a channel that meets the invariant. -/
theorem Effect.txStepped {s t : State} {i : Instr} (he : Effect s i t) {c : Chan} (hok : ChanOk (s.chan c)) :
    TxStepped c s t := by
  cases he with
  | faulted => exact ⟨_, rfl, .kept (by simp [Event.isArm, Event.isTransmit]) (by rw [Faulted_chan]; exact .refl _)⟩
  | branched => exact ⟨[], (List.append_nil _).symm, .kept (txQuiet_nil c) (by rw [State.chan_mk]; exact .refl _)⟩
  | initialised | sendAborted | txForced =>
    exact State.put_txStepped (fun _ => .ended rfl) fun _ => by simp [Event.isArm, Event.isTransmit]
  | sendArmed _ _ _ _ _ _ _ _ _ hb =>
    exact State.put_txStepped (fun _ => .armed _ _ hb rfl rfl) fun hne => by
      simp [Event.isArm, Event.isTransmit, hne.symm]
  | emitted _ _ _ _ hr htc =>
    exact State.put_txStepped (fun _ => .emitted hr htc) fun hne => by simp [Event.isArm, Event.isTransmit, hne.symm]
  | txAdvanced _ _ _ _ _ htc hr hl =>
    rw [← ChanState.served_of_short hl]
    exact State.put_txStepped (fun _ => .served hr htc (txQuiet_nil _)) fun hne => by
      simp [Event.isArm, Event.isTransmit, hne.symm]
  | txCompleted _ _ _ _ _ htc hr hl =>
    rw [← ChanState.served_of_last hl]
    exact State.put_txStepped (fun _ => .served hr htc (by simp [Event.isArm, Event.isTransmit])) fun hne => by
      simp [Event.isArm, Event.isTransmit, hne.symm]
  | txSpurious _ _ _ _ _ htc hr =>
    refine State.put_txStepped (fun h => ?_) fun hne => by simp [Event.isArm, Event.isTransmit, hne.symm]
    subst h
    cases hr.symm.trans (hok.txPending htc)
  | _ =>
    exact State.put_txStepped (fun _ => .kept (by simp [Event.isArm, Event.isTransmit]) ⟨rfl, rfl, rfl, rfl⟩) fun _ => by
      simp [Event.isArm, Event.isTransmit]

theorem step_txStepped {s t : State} {c : Chan} (h : step s = .next t) (hok : ChanOk (s.chan c)) : TxStepped c s t := by
  obtain ⟨l, rest, -, ⟨i, -, -, he⟩ | ⟨p, -, -, rfl⟩ | ⟨a, v, -, rfl⟩⟩ := step_effect h
  · have hslot := State.chan_withSchedule s rest c
    obtain ⟨es, hhist, hstep⟩ := he.txStepped (c := c) (by rwa [hslot])
    exact ⟨es, hhist, hslot ▸ hstep⟩
  · exact ⟨_, rfl, .kept (by simp [Event.isArm, Event.isTransmit]) (by simpa using .refl _)⟩
  · exact ⟨[], (List.append_nil _).symm, .kept (txQuiet_nil c) (by simpa using .refl _)⟩

/-! The line account (R154). -/

/-- How many bytes of its buffer a transmit has handed to the line: those the cursor counts, and the one whose event is
pending. -/
def ChanState.sent (x : ChanState) : Nat := x.tx.cur.toNat + x.tc.toNat

@[simp] theorem ChanState.served_tc (x : ChanState) : x.served.tc = false := by
  unfold ChanState.served
  split <;> rfl

@[simp] theorem ChanState.served_len (x : ChanState) : x.served.tx.len = x.tx.len := by
  unfold ChanState.served
  split <;> rfl

/-- Serving the pending event counts its byte by the cursor. -/
theorem ChanState.served_sent {x : ChanState} (hok : ChanOk x) (hr : x.tx.run = true) (htc : x.tc = true) :
    x.served.sent = x.sent := by
  rw [ChanState.sent, ChanState.served_cur, ChanState.served_tc, cursor_succ_toNat hok.txEngine hr, ChanState.sent, htc]
  rfl

/-- An engaged transmit has sent no more than its buffer. -/
theorem ChanState.sent_le {x : ChanState} (hok : ChanOk x) (hr : x.tx.run = true) : x.sent ≤ x.tx.len.toNat := by
  obtain ⟨-, hlt, -⟩ := hok.txEngine hr
  exact Nat.le_trans (Nat.add_le_add_left (Bool.toNat_le x.tc) _) hlt

/-- The line account after a step that leaves the transmit engaged: one just armed has sent nothing; one engaged before has
sent as many bytes as before, or the one at the cursor as well. -/
theorem TxStep.sent_cases {c : Chan} {m : Memory} {x y : ChanState} {es : List Event} (h : TxStep c m x es y)
    (hok : ChanOk x) (hok' : ChanOk y) (hr : y.tx.run = true) (hist : List Event) :
    (y.sent = 0 ∧ txSinceArm c (hist ++ es) = []) ∨
    (x.tx.run = true ∧ y.tx.ptr = x.tx.ptr ∧ y.tx.len = x.tx.len ∧
      ((y.sent = x.sent ∧ txSinceArm c (hist ++ es) = txSinceArm c hist) ∨
        (y.sent = x.sent + 1 ∧
          txSinceArm c (hist ++ es) = txSinceArm c hist ++ [m.read (x.tx.ptr.toNat + x.sent)]))) := by
  cases h with
  | kept hes hy =>
    obtain ⟨htx, -, htc, -⟩ := hy
    have hsent : y.sent = x.sent := by rw [ChanState.sent, htx, htc, ChanState.sent]
    exact .inr ⟨htx ▸ hr, by rw [htx], by rw [htx], .inl ⟨hsent, txSinceArm_append_quiet hes hist⟩⟩
  | ended hy => cases hr.symm.trans (hok'.txFlag.symm.trans hy)
  | armed ptr len hb hy htc =>
    have hidle : x.tc = false := Bool.eq_false_of_not_eq_true fun hpending => by
      cases hb.symm.trans (hok.txFlag.trans (hok.txPending hpending))
    exact .inl ⟨by rw [ChanState.sent, hy, htc, hidle]; rfl, txSinceArm_append_arm ..⟩
  | emitted hxr htc =>
    have hsent : x.sent = x.tx.cur.toNat := by rw [ChanState.sent, htc]; rfl
    refine .inr ⟨hxr, rfl, rfl, .inr ⟨by rw [hsent]; rfl, ?_⟩⟩
    rw [txSinceArm_append_txByte, hsent, Engine.address]
  | served hxr htc hes =>
    refine .inr ⟨hxr, ChanState.served_ptr x, ChanState.served_len x, .inl ⟨ChanState.served_sent hok hxr htc, ?_⟩⟩
    rw [List.append_cons, txSinceArm_append_quiet hes, txSinceArm_append_irq]

end Sys2Proof.Machine
end

section
/-! The line account of the machine (45_state_machine.md section 2). -/

namespace Sys2Proof.Safety

open Sys2Proof.Machine

/-- The count of R154, over a step. -/
theorem lineCounted_step {s t : State} (hinv : StateInv s) (hstep : step s = .next t) (hcount : LineCounted s) :
    LineCounted t := by
  intro c hready hr
  have hready' := step_pinsClocksReady hstep c ▸ hready
  have hok := hinv.chans c hready'
  obtain ⟨es, hhist, htx⟩ := step_txStepped hstep hok
  rw [hhist]
  obtain ⟨hsent, hline⟩ | ⟨hxr, -, -, ⟨hsent, hline⟩ | ⟨hsent, hline⟩⟩ :=
    htx.sent_cases hok (step_chanOk hstep hok) hr s.hist
  · rw [hline]; exact hsent.symm
  · rw [hline]; exact (hcount c hready' hxr).trans hsent.symm
  · rw [hline, List.length_append, hcount c hready' hxr]; exact hsent.symm

/-- The bytes of R154 for one channel, over a step that leaves the buffer alone. -/
theorem lineIsBuffer_step {s t : State} {c : Chan} (hok : ChanOk (s.chan c)) (hstep : step s = .next t)
    (hkept : BufferKept (s.chan c).tx s t) (hbytes : LineIsBuffer c s) : LineIsBuffer c t := by
  intro hr
  have hok' := step_chanOk hstep hok
  obtain ⟨es, hhist, htx⟩ := step_txStepped hstep hok
  show _ = (List.range (t.chan c).sent).map _
  rw [hhist]
  obtain ⟨hsent, hline⟩ | ⟨hxr, hptr, hlen, hcases⟩ := htx.sent_cases hok hok' hr s.hist
  · rw [hline, hsent]; rfl
  have hread : (List.range (t.chan c).sent).map (fun i => t.mem.read ((t.chan c).tx.ptr.toNat + i)) =
      (List.range (t.chan c).sent).map (fun i => s.mem.read ((s.chan c).tx.ptr.toNat + i)) := by
    refine List.map_congr_left fun i hi => ?_
    rw [hptr]
    exact hkept i (hlen ▸ Nat.lt_of_lt_of_le (List.mem_range.1 hi) (ChanState.sent_le hok' hr))
  rw [hread]
  obtain ⟨hsent, hline⟩ | ⟨hsent, hline⟩ := hcases
  · rw [hline, hsent, hbytes hxr]; rfl
  · rw [hline, hsent, hbytes hxr, List.range_succ, List.map_append]; rfl

/-- Settles O40: the count for every channel, the bytes for one whose buffer the step leaves alone. -/
theorem stepKeepsTheLineAccount : Obligations.StepKeepsTheLineAccount := fun _ _ hinv hstep =>
  ⟨lineCounted_step hinv hstep, fun c hready hbytes hkept => lineIsBuffer_step (hinv.chans c hready) hstep hkept hbytes⟩

end Sys2Proof.Safety
end

section
/-! SUPPORT. A transmit under way (R157): the bytes it has handed to the line and the events of its transmit side since its
arming, along a run. -/

namespace Sys2Proof.Machine

open Sys2Proof.Safety

/-- The events of the transmit side of channel `c` that take the first `n` bytes of `f` out, and the next byte's `TXBYTE` if
its event is pending. -/
def transmitEvents (c : Chan) (f : Nat → Byte) (n : Nat) (pending : Bool) : List Event :=
  (List.range n).flatMap (fun i => [.txByte c (f i), .irq c .tc]) ++ if pending then [.txByte c (f n)] else []

/-- Since state `s₀`, channel `c` has handed the first `n` bytes of `f` to its line and served their events, and the next byte
if its event is pending. -/
structure SentSince (c : Chan) (f : Nat → Byte) (s₀ : State) (n : Nat) (pending : Bool) (s : State) : Prop where
  line : (s.chan c).txLine = (s₀.chan c).txLine ++ (List.range (n + pending.toNat)).map f
  events : ∃ es, s.hist = s₀.hist ++ es ∧ es.filter (Event.isTransmit c) = transmitEvents c f n pending

section
variable {c : Chan} {f : Nat → Byte} {s₀ s t : State} {n : Nat} {es : List Event}

theorem SentSince.start (c : Chan) (f : Nat → Byte) (s : State) : SentSince c f s 0 false s :=
  ⟨(List.append_nil _).symm, [], (List.append_nil _).symm, rfl⟩

theorem SentSince.keep {pending : Bool} (h : SentSince c f s₀ n pending s) (hhist : t.hist = s.hist ++ es)
    (hes : TxQuiet c es) (hline : (t.chan c).txLine = (s.chan c).txLine) : SentSince c f s₀ n pending t := by
  obtain ⟨es₀, hhist₀, hes₀⟩ := h.events
  refine ⟨hline.trans h.line, es₀ ++ es, by rw [hhist, hhist₀, List.append_assoc], ?_⟩
  rw [List.filter_append, hes₀, hes.filter_eq_nil, List.append_nil]

theorem SentSince.emit (h : SentSince c f s₀ n false s) (hhist : t.hist = s.hist ++ [.txByte c (f n)])
    (hline : (t.chan c).txLine = (s.chan c).txLine ++ [f n]) : SentSince c f s₀ n true t := by
  obtain ⟨es₀, hhist₀, hes₀⟩ := h.events
  refine ⟨?_, es₀ ++ [.txByte c (f n)], by rw [hhist, hhist₀, List.append_assoc], ?_⟩
  · rw [hline, h.line]
    simp [List.range_succ]
  · rw [List.filter_append, hes₀]
    simp [transmitEvents, Event.isTransmit]

theorem SentSince.serve (h : SentSince c f s₀ n true s) (hhist : t.hist = s.hist ++ .irq c .tc :: es) (hes : TxQuiet c es)
    (hline : (t.chan c).txLine = (s.chan c).txLine) : SentSince c f s₀ (n + 1) false t := by
  obtain ⟨es₀, hhist₀, hes₀⟩ := h.events
  refine ⟨hline.trans h.line, es₀ ++ .irq c .tc :: es, by rw [hhist, hhist₀, List.append_assoc], ?_⟩
  rw [List.filter_append, hes₀, List.filter_cons_of_pos (by simp [Event.isTransmit]), hes.filter_eq_nil]
  simp [transmitEvents, List.range_succ]

end

/-- With a transmit engaged `IrqTC` serves the pending event and logs it, before the callback of the last byte (R174). -/
theorem Effect.served_of_engaged {s t : State} {ch : ChanId} {c : Chan} (he : Effect s (.irqTC ch) t)
    (hc : chanOfId ch = some c) (hr : (s.chan c).tx.run = true) :
    (s.chan c).tc = true ∧ t.chan c = (s.chan c).served ∧
      ∃ es, t.hist = s.hist ++ .irq c .tc :: es ∧ TxQuiet c es := by
  cases he with
  | faulted _ _ _ hctx => cases hctx
  | txAdvanced _ c' hc' _ _ htc _ hshort =>
    cases hc.symm.trans hc'
    exact ⟨htc, by rw [State.put_chan_same, ChanState.served_of_short hshort], [], State.put_hist .., txQuiet_nil c⟩
  | txCompleted _ c' hc' _ _ htc _ hlast =>
    cases hc.symm.trans hc'
    exact ⟨htc, by rw [State.put_chan_same, ChanState.served_of_last hlast], [.cplt c .tx], State.put_hist ..,
      by simp [Event.isArm, Event.isTransmit]⟩
  | txSpurious _ c' hc' _ _ _ hidle =>
    cases hc.symm.trans hc'
    cases hidle.symm.trans hr

/-- The transmit that engine `e` armed in state `s₀` is under way, its buffer as it was and the bytes sent since the first
ones of it. -/
structure Transmitting (c : Chan) (e : Engine) (s₀ s : State) : Prop where
  ok : ChanOk (s.chan c)
  busy : (s.chan c).txBusy = true
  ptr : (s.chan c).tx.ptr = e.ptr
  len : (s.chan c).tx.len = e.len
  buffer : BufferKept e s₀ s
  sent : SentSince c (fun i => s₀.mem.read (e.ptr.toNat + i)) s₀ (s.chan c).tx.cur.toNat (s.chan c).tc s

section
variable {c : Chan} {e : Engine} {s₀ s t : State} (h : Transmitting c e s₀ s)
include h

theorem Transmitting.run : (s.chan c).tx.run = true := h.ok.txFlag.symm.trans h.busy

/-- The byte at the cursor is the buffer's, as it stood at the arming. -/
theorem Transmitting.byte_at_cursor :
    s.mem.read (s.chan c).tx.address = s₀.mem.read (e.ptr.toNat + (s.chan c).tx.cur.toNat) := by
  obtain ⟨-, hlt, -⟩ := h.ok.txEngine h.run
  rw [Engine.address, h.ptr]
  exact h.buffer _ (h.len ▸ hlt)

/-- Serving a pending event counts one byte more as sent and served. -/
theorem Transmitting.serve {es : List Event} (htc : (s.chan c).tc = true) (hslot : t.chan c = (s.chan c).served)
    (hhist : t.hist = s.hist ++ .irq c .tc :: es) (hes : TxQuiet c es) :
    SentSince c (fun i => s₀.mem.read (e.ptr.toNat + i)) s₀ ((s.chan c).tx.cur + 1).toNat false t := by
  rw [cursor_succ_toNat h.ok.txEngine h.run]
  exact SentSince.serve (htc ▸ h.sent) hhist hes (by rw [hslot, ChanState.served_txLine])

/-- A step that leaves the buffer alone and the flag set keeps the transmit under way. -/
theorem Transmitting.step_kept (hs : step s = .next t) (hkept : BufferKept e s t) (hb : (t.chan c).txBusy = true) :
    Transmitting c e s₀ t := by
  obtain ⟨es, hhist, hstep⟩ := step_txStepped hs h.ok
  have hok := step_chanOk hs h.ok
  have hbuffer : BufferKept e s₀ t := fun i hi => (hkept i hi).trans (h.buffer i hi)
  generalize hy : t.chan c = y at hstep
  cases hstep with
  | kept hes hsame =>
    subst hy
    obtain ⟨htx, -, htc, hline⟩ := hsame
    exact ⟨hok, hb, by rw [htx, h.ptr], by rw [htx, h.len], hbuffer, by
      rw [htx, htc]; exact h.sent.keep hhist hes hline⟩
  | ended hclear => rw [hy, hclear] at hb; cases hb
  | armed _ _ hclear => cases hclear.symm.trans h.busy
  | emitted _ htc =>
    refine ⟨hok, hb, by rw [hy]; exact h.ptr, by rw [hy]; exact h.len, hbuffer, ?_⟩
    rw [hy]
    rw [h.byte_at_cursor] at hhist hy
    exact SentSince.emit (htc ▸ h.sent) hhist (by rw [hy]; rfl)
  | served _ htc hes =>
    refine ⟨hok, hb, by rw [hy, ChanState.served_ptr, h.ptr], by rw [hy, ChanState.served_len, h.len], hbuffer, ?_⟩
    rw [hy, ChanState.served_cur, ChanState.served_tc]
    exact h.serve htc hy hhist hes

/-- The step of `IrqTC` that clears the flag is the last byte's. -/
theorem Transmitting.completed {ch : ChanId} (hs : step s = .next t) (hn : nextInstr s = some (.irqTC ch))
    (hc : chanOfId ch = some c) (hclear : (t.chan c).txBusy = false) :
    SentSince c (fun i => s₀.mem.read (e.ptr.toNat + i)) s₀ e.len.toNat false t := by
  obtain ⟨rest, he⟩ := step_effect_of_nextInstr hs hn
  have hslot := State.chan_withSchedule s rest c
  obtain ⟨htc, hserved, es, hhist, hes⟩ := he.served_of_engaged hc (by rw [hslot]; exact h.run)
  rw [hslot] at htc hserved
  have hlast : (s.chan c).tx.cur + 1 = (s.chan c).tx.len := Decidable.not_not.1 fun hshort => by
    rw [hserved, ChanState.served_of_short hshort] at hclear
    cases hclear.symm.trans h.busy
  rw [← h.len, ← hlast]
  exact h.serve htc hserved hhist hes

end

end Sys2Proof.Machine
end

section
/-! The statements of 45_state_machine.md section 3, over runs: a completed send. -/

namespace Sys2Proof.Safety

open Sys2Proof.Machine

/-- Settles O55: the transmit stays under way along the run, and the last step serves the last byte's event. -/
theorem completedSendPutTheBufferOnTheLine : Obligations.CompletedSendPutTheBufferOnTheLine := by
  intro s t u c e hready hinv htx hr hcur hidle hrun hlast hcancel hclear
  have hok := hinv.chans c hready
  subst htx
  have start : Transmitting c (s.chan c).tx s s :=
    ⟨hok, hok.txFlag.trans hr, rfl, rfl, fun _ _ => rfl, by rw [hcur, hidle]; exact .start ..⟩
  have hsending : Transmitting c (s.chan c).tx s t :=
    hrun.keeps start fun _ _ h hproper hkept => h.step_kept hproper.1 hkept.1 hkept.2.1
  obtain ⟨ch, hn, hc⟩ := isrStep_of_flag_cleared (d := .tx) hlast
    (ChanState.inited_of_tx_run hsending.ok hsending.run) hcancel hsending.busy hclear
  obtain ⟨hline, es, hhist, hes⟩ := hsending.completed hlast.1 hn hc hclear
  exact ⟨hline, es, hhist, hes.trans (List.append_nil _)⟩

end Sys2Proof.Safety
end

section
/-! SUPPORT. A receive under way and the bytes that arrive (R158): each is waiting in the receive register or stored, in order,
as long as none is lost. -/

namespace Sys2Proof.Machine

open Sys2Proof.Safety

/-- The byte waiting in the receive register, if one is. -/
def ChanState.waiting (x : ChanState) : List Byte := if x.rxne then [x.rdr] else []

/-- An instruction that is no `IrqRXNE` of channel `c` and overruns nothing leaves what waited, then what arrived, waiting. -/
theorem Effect.logs_arrivals {s t : State} {i : Instr} {c : Chan} (he : Effect s i t) (hown : ¬ ServesReceive c i)
    (hovr : (t.chan c).ovr = false) :
    ∃ es, t.hist = s.hist ++ es ∧ (t.chan c).waiting = (s.chan c).waiting ++ es.filterMap (Event.arrival c) := by
  cases he with
  | faulted i f => exact ⟨[.fault f.kind], rfl, by rw [Faulted_chan]; exact (List.append_nil _).symm⟩
  | branched => exact ⟨[], (List.append_nil _).symm, by rw [State.chan_mk]; exact (List.append_nil _).symm⟩
  | arrived _ c' b _ _ hn =>
    refine ⟨_, State.put_hist .., ?_⟩
    by_cases h : c = c'
    · subst h; simp [ChanState.waiting, hn, Event.arrival]
    · simp [State.put_chan_other _ _ _ _ _ _ _ _ _ h, Event.arrival, Ne.symm h]
  | overran _ c' b =>
    refine ⟨_, State.put_hist .., ?_⟩
    by_cases h : c = c'
    · subst h; simp at hovr
    · simp [State.put_chan_other _ _ _ _ _ _ _ _ _ h, Event.arrival, Ne.symm h]
  | rxStored ch c' hc | rxCompleted ch c' hc | rxDiscarded ch c' hc =>
    have hne : c ≠ c' := fun h => hown ⟨ch, rfl, h ▸ hc⟩
    exact ⟨_, State.put_hist .., by simp [State.put_chan_other _ _ _ _ _ _ _ _ _ hne, Event.arrival]⟩
  | _ =>
    exact ⟨_, State.put_hist .., (List.append_nil _).symm ▸
      State.put_chan_rel (R := fun x y => y.waiting = x.waiting) (by rfl) (fun _ => rfl) c⟩

theorem step_logs_arrivals {s t : State} {c : Chan} (h : step s = .next t) (hown : ¬ ReceiveStepNext c s)
    (hovr : (t.chan c).ovr = false) :
    ∃ es, t.hist = s.hist ++ es ∧ (t.chan c).waiting = (s.chan c).waiting ++ es.filterMap (Event.arrival c) := by
  obtain ⟨l, rest, -, ⟨i, hn, -, he⟩ | ⟨p, -, -, rfl⟩ | ⟨a, v, -, rfl⟩⟩ := step_effect h
  · have hown' : ¬ ServesReceive c i := fun ⟨ch, hi, hc⟩ => hown ⟨ch, hi ▸ hn, hc⟩
    obtain ⟨es, hhist, hwait⟩ := he.logs_arrivals hown' hovr
    exact ⟨es, hhist, by rwa [State.chan_withSchedule s rest] at hwait⟩
  · exact ⟨[.fault .illegal], rfl, by simp [Event.arrival]⟩
  · exact ⟨[], (List.append_nil _).symm, by simp⟩

/-- Since state `s₀`, channel `c` has stored `n` bytes, to the addresses from `p` up; they and the byte waiting are the byte
that waited then and the ones that arrived since, in order. -/
def StoredInOrder (c : Chan) (p : Nat) (s₀ : State) (n : Nat) (s : State) : Prop :=
  ∃ es, s.hist = s₀.hist ++ es ∧
    (es.filterMap (Event.store c)).map Prod.fst = (List.range n).map (fun i => p + i) ∧
    (es.filterMap (Event.store c)).map Prod.snd ++ (s.chan c).waiting =
      (s₀.chan c).waiting ++ es.filterMap (Event.arrival c)

section
variable {c : Chan} {p n : Nat} {s₀ s t : State} {es : List Event}

theorem StoredInOrder.start (c : Chan) (p : Nat) (s : State) : StoredInOrder c p s 0 s :=
  ⟨[], (List.append_nil _).symm, rfl, (List.append_nil _).symm⟩

/-- While nothing is stored, what arrives waits. -/
theorem StoredInOrder.wait (h : StoredInOrder c p s₀ n s) (hhist : t.hist = s.hist ++ es)
    (hes : es.filterMap (Event.store c) = [])
    (hwait : (t.chan c).waiting = (s.chan c).waiting ++ es.filterMap (Event.arrival c)) : StoredInOrder c p s₀ n t := by
  obtain ⟨es₀, hhist₀, haddr, hbytes⟩ := h
  refine ⟨es₀ ++ es, by rw [hhist, hhist₀, List.append_assoc], ?_, ?_⟩
  · rw [List.filterMap_append, hes, List.append_nil, haddr]
  · rw [List.filterMap_append, hes, List.append_nil, hwait, ← List.append_assoc, hbytes, List.filterMap_append,
      List.append_assoc]

/-- The store of the byte waiting leaves none. -/
theorem StoredInOrder.store {b : Byte} (h : StoredInOrder c p s₀ n s) (hhist : t.hist = s.hist ++ es)
    (hes : es.filterMap (Event.store c) = [(p + n, b)]) (harrival : es.filterMap (Event.arrival c) = [])
    (hwait : (s.chan c).waiting = [b]) (hwait' : (t.chan c).waiting = []) : StoredInOrder c p s₀ (n + 1) t := by
  obtain ⟨es₀, hhist₀, haddr, hbytes⟩ := h
  refine ⟨es₀ ++ es, by rw [hhist, hhist₀, List.append_assoc], ?_, ?_⟩
  · rw [List.filterMap_append, hes, List.map_append, haddr, List.range_succ, List.map_append]
    rfl
  · rw [hwait] at hbytes
    rw [List.filterMap_append, hes, List.map_append, hwait', List.append_nil, List.filterMap_append, harrival,
      List.append_nil, ← hbytes]
    rfl

end

/-- `IrqRXNE` runs with a byte waiting (R175). -/
theorem Effect.rxne_of_irqRXNE {s t : State} {ch : ChanId} {c : Chan} (he : Effect s (.irqRXNE ch) t)
    (hc : chanOfId ch = some c) : (s.chan c).rxne = true := by
  cases he with
  | faulted _ _ _ hctx => cases hctx
  | rxStored _ _ hc' _ _ hn | rxCompleted _ _ hc' _ _ hn | rxDiscarded _ _ hc' _ _ hn =>
    cases hc.symm.trans hc'
    exact hn

/-- By the invariant an engaged receive is one of an initialized channel. -/
theorem ChanState.inited_of_rx_run {x : ChanState} (hok : ChanOk x) (hr : x.rx.run = true) : x.inited = true := by
  refine Bool.eq_true_of_not_eq_false fun hi => ?_
  obtain ⟨-, hidle, -⟩ := hok.inert hi
  cases hidle.symm.trans hr

/-- The receive that engine `e` armed in state `s₀` is under way, and its stores since are in order. -/
structure ReceivingInOrder (c : Chan) (e : Engine) (s₀ s : State) : Prop where
  ok : ChanOk (s.chan c)
  busy : (s.chan c).rxBusy = true
  ptr : (s.chan c).rx.ptr = e.ptr
  len : (s.chan c).rx.len = e.len
  stored : StoredInOrder c e.ptr.toNat s₀ (s.chan c).rx.cur.toNat s

section
variable {c : Chan} {e : Engine} {s₀ s t : State} (h : ReceivingInOrder c e s₀ s) (hs : step s = .next t)
include h

theorem ReceivingInOrder.run : (s.chan c).rx.run = true := h.ok.rxFlag.symm.trans h.busy

include hs

/-- The channel's own `IrqRXNE` stores the byte waiting at the cursor; short of the last byte the cursor advances, and on the
last one the flag clears. -/
theorem ReceivingInOrder.own_step (hown : ReceiveStepNext c s) :
    StoredInOrder c e.ptr.toNat s₀ ((s.chan c).rx.cur.toNat + 1) t ∧ (t.chan c).waiting = [] ∧
      ((t.chan c).rx = { (s.chan c).rx with cur := (s.chan c).rx.cur + 1 } ∧ (t.chan c).rxBusy = true ∨
        (s.chan c).rx.cur + 1 = (s.chan c).rx.len ∧ (t.chan c).rxBusy = false) := by
  obtain ⟨ch, hn, hc⟩ := hown
  obtain ⟨rest, he⟩ := step_effect_of_nextInstr hs hn
  have hslot : State.chan { s with schedule := rest } c = s.chan c := State.chan_withSchedule s rest c
  have hrxne := he.rxne_of_irqRXNE hc
  obtain ⟨x, es, rfl, hx⟩ := he.stored_of_engaged hc (by rw [hslot]; exact h.run)
  rw [hslot] at hrxne hx ⊢
  have haddr : (s.chan c).rx.address = e.ptr.toNat + (s.chan c).rx.cur.toNat := by rw [Engine.address, h.ptr]
  have hes : es.filterMap (Event.store c) = [(e.ptr.toNat + (s.chan c).rx.cur.toNat, (s.chan c).rdr)] ∧
      es.filterMap (Event.arrival c) = [] ∧ x.waiting = [] := by
    obtain ⟨-, rfl, rfl⟩ | ⟨-, rfl, rfl⟩ := hx <;>
      simp [List.filterMap_cons, Event.store, Event.arrival, ChanState.waiting, haddr]
  obtain ⟨hstore, harrival, hempty⟩ := hes
  have hwait : (s.chan c).waiting = [(s.chan c).rdr] := by rw [ChanState.waiting, if_pos hrxne]
  refine ⟨h.stored.store (State.put_hist ..) hstore harrival hwait (by rw [State.put_chan_same]; exact hempty), ?_⟩
  rw [State.put_chan_same]
  refine ⟨hempty, ?_⟩
  obtain ⟨-, rfl, -⟩ | ⟨hlast, rfl, -⟩ := hx
  · exact .inl ⟨rfl, h.busy⟩
  · exact .inr ⟨hlast, rfl⟩

/-- A step that leaves the flag set and loses no byte keeps the receive under way. -/
theorem ReceivingInOrder.step_kept (hb : (t.chan c).rxBusy = true) (hovr : (t.chan c).ovr = false) :
    ReceivingInOrder c e s₀ t := by
  have hok := step_chanOk hs h.ok
  by_cases hown : ReceiveStepNext c s
  · obtain ⟨hstored, -, ⟨hrx, -⟩ | ⟨-, hclear⟩⟩ := h.own_step hs hown
    · refine ⟨hok, hb, by rw [hrx, h.ptr], by rw [hrx, h.len], ?_⟩
      rw [hrx, cursor_succ_toNat h.ok.rxEngine h.run]
      exact hstored
    · cases hclear.symm.trans hb
  · obtain ⟨hrx, es, hhist, hes⟩ := step_receive_kept hs hown h.busy hb
    obtain ⟨es', hhist', hwait⟩ := step_logs_arrivals hs hown hovr
    obtain rfl := List.append_cancel_left (hhist.symm.trans hhist')
    exact ⟨hok, hb, by rw [hrx, h.ptr], by rw [hrx, h.len], by rw [hrx]; exact h.stored.wait hhist hes hwait⟩

end

end Sys2Proof.Machine
end

section
/-! The statements of 45_state_machine.md section 3, over runs: a completed receive. -/

namespace Sys2Proof.Safety

open Sys2Proof.Machine

/-- Settles O56: the receive stays under way along the run, and the last step stores the last byte and leaves none waiting. -/
theorem completedReceiveStoredTheArrivals : Obligations.CompletedReceiveStoredTheArrivals := by
  intro s t u c e hready hinv hrx hr hcur hrun hlast hovr hcancel hclear
  have hok := hinv.chans c hready
  subst hrx
  have start : ReceivingInOrder c (s.chan c).rx s s :=
    ⟨hok, hok.rxFlag.trans hr, rfl, rfl, by rw [hcur]; exact .start ..⟩
  have hreceiving : ReceivingInOrder c (s.chan c).rx s t :=
    hrun.keeps start fun _ _ h hproper ⟨hb, hnone, _⟩ => h.step_kept hproper.1 hb hnone
  have hown := isrStep_of_flag_cleared (d := .rx) hlast (ChanState.inited_of_rx_run hreceiving.ok hreceiving.run) hcancel
    hreceiving.busy hclear
  obtain ⟨⟨es, hhist, haddr, hbytes⟩, hempty, ⟨-, hbusy⟩ | ⟨hend, -⟩⟩ := hreceiving.own_step hlast.1 hown
  · cases hclear.symm.trans hbusy
  have hlen : (s.chan c).rx.len.toNat = (t.chan c).rx.cur.toNat + 1 := by
    rw [← hreceiving.len, ← hend, cursor_succ_toNat hreceiving.ok.rxEngine hreceiving.run]
  rw [hempty, List.append_nil] at hbytes
  exact ⟨es, hhist, hlen ▸ haddr, hbytes⟩

end Sys2Proof.Safety
end

section
/-! SUPPORT. The faults every command can raise before its body runs, and the state after a step that raised one
(60_exceptions.md section 1). -/

namespace Sys2Proof.Machine

open Sys2Proof.Safety

section
variable {s : State} {ch : ChanId} (hf : s.fault = none)
include hf

/-- The Registry lookup comes first: an unknown identifier is a configuration error, whatever the command would do
(R162, R169). -/
theorem channelStep_of_unknown (hc : chanOfId ch = none) (body : Chan → State → State) :
    taskStep (withChan ch body) s = .next (Faulted (.config ch) s) := by
  rw [taskStep_of_none hf, withChan_of_none hc, raise_of_none hf]

/-- The initialization check comes second: it fails on a slot never initialized, whatever the command would do (R163,
R169). -/
theorem readyStep_of_uninit {c : Chan} (hc : chanOfId ch = some c) (hi : (s.chan c).inited = false)
    (body : Chan → State → State) : taskStep (withReadyChan ch body) s = .next (Faulted (.uninit c) s) := by
  rw [taskStep_of_none hf, withReadyChan_of_uninit hc hi, raise_of_none hf]

end

/-- An instruction after which a fault stands that did not stand before has done nothing but raise it (R161). -/
theorem Effect.eq_faulted_of_raised {s t : State} {i : Instr} {f : FaultInfo} (he : Effect s i t)
    (hf : s.fault = none) (ht : t.fault = some f) : t = Faulted f s := by
  cases he with
  | faulted _ g => cases ht; rfl
  | branched => exact absurd (ht.symm.trans hf) (Option.some_ne_none f)
  | _ => exact absurd (ht.symm.trans ((State.put_fault ..).trans hf)) (Option.some_ne_none f)

end Sys2Proof.Machine
end

section
/-! The statements of 60_exceptions.md section 1. -/

namespace Sys2Proof.Safety

open Sys2Proof.Machine

/-- Settles O21: a step takes its line, and then an instruction or the fetch raises the fault; an outside write raises
none. -/
theorem raisingAFaultWritesOnlyFaultAndHistory : Obligations.RaisingAFaultWritesOnlyFaultAndHistory := by
  intro s t f _ hstep hf ht
  obtain ⟨l, rest, hs, hmove⟩ := step_effect hstep
  rw [hs, List.tail_cons]
  obtain ⟨i, -, -, he⟩ | ⟨p, -, -, rfl⟩ | ⟨a, v, -, rfl⟩ := hmove
  · exact he.eq_faulted_of_raised hf ht
  · cases ht; rfl
  · exact absurd (ht.symm.trans hf) (Option.some_ne_none f)

/-- Settles O19: each of the seven commands looks its channel up first. -/
theorem unknownChannelIsAConfigurationError : Obligations.UnknownChannelIsAConfigurationError := by
  intro s ch a b hch hf
  have faults := channelStep_of_unknown hf ((chanOfId_none_iff ch).2 hch)
  exact ⟨faults _, faults _, faults _, faults _, faults _, faults _, faults _⟩

/-- Settles O20: each of the six other commands checks next that the channel is initialized. -/
theorem uninitialisedChannelFaultsEveryOtherCommand : Obligations.UninitialisedChannelFaultsEveryOtherCommand := by
  intro s ch c a b hc _ hf hi
  have faults := readyStep_of_uninit hf hc hi
  exact ⟨faults _, faults _, faults _, faults _, faults _, faults _⟩

end Sys2Proof.Safety
end

section
/-! SUPPORT. The two interrupt steps of a channel in one form (R174, R175): what the step of a direction makes of a slot
and of memory, and what it logs, for both directions at once. -/

namespace Sys2Proof.Machine

open Sys2Proof.Safety

/-- The byte at the cursor is the last one of a transfer under way. -/
def Engine.onLast (e : Engine) : Bool := e.run && decide (e.cur + 1 = e.len)

/-- The engine after one of its bytes was handled: an engaged one advances, and on the last byte disengages. -/
def Engine.handled (e : Engine) : Engine :=
  { e with run := e.run && !e.onLast, cur := if e.run then e.cur + 1 else e.cur }

/-- The slot after the interrupt step of direction `d`: its event acknowledged, its engine moved on, and its flag
cleared on the last byte. -/
def ChanState.handled (x : ChanState) (d : Dir) : ChanState :=
  match d with
  | .tx => { x with tc := false, tx := x.tx.handled, txBusy := x.txBusy && !x.tx.onLast }
  | .rx => { x with rxne := false, rx := x.rx.handled, rxBusy := x.rxBusy && !x.rx.onLast }

/-- Memory after the interrupt step of direction `d`: an engaged receive stores its byte at the cursor. -/
def ChanState.storeInto (x : ChanState) (d : Dir) (m : Memory) : Memory :=
  match d with
  | .tx => m
  | .rx => if x.rx.run then m.write x.rx.address x.rdr else m

/-- What the interrupt step of direction `d` logs before a completion: the acknowledgment and what became of a byte. -/
def ChanState.acknowledgment (x : ChanState) (c : Chan) (d : Dir) : List Event :=
  match d with
  | .tx => [.irq c .tc]
  | .rx => [.irq c .rxne, if x.rx.run then .rxStore c x.rx.address x.rdr else .rxDiscard c x.rdr]

/-- What the interrupt step of direction `d` logs. -/
def ChanState.handlingLog (x : ChanState) (c : Chan) (d : Dir) : List Event :=
  x.acknowledgment c d ++ if (x.engine d).onLast then [.cplt c d] else []

/-- The state after the interrupt step of direction `d` of channel `c`. -/
def State.handled (s : State) (c : Chan) (d : Dir) : State :=
  s.put c ((s.chan c).handled d) ((s.chan c).storeInto d s.mem) s.tpc s.r ((s.chan c).handlingLog c d) s.draws

section
variable (s : State) (c : Chan) (d : Dir)

theorem State.handled_chan (c' : Chan) :
    (s.handled c d).chan c' = if c' = c then (s.chan c').handled d else s.chan c' := by
  rw [State.handled, State.put_chan]
  split
  · next h => rw [h]
  · rfl

@[simp] theorem State.handled_mem : (s.handled c d).mem = (s.chan c).storeInto d s.mem := State.put_mem ..
@[simp] theorem State.handled_hist : (s.handled c d).hist = s.hist ++ (s.chan c).handlingLog c d := State.put_hist ..
@[simp] theorem State.handled_fault : (s.handled c d).fault = s.fault := State.put_fault ..
@[simp] theorem State.handled_tpc : (s.handled c d).tpc = s.tpc := State.put_tpc ..
@[simp] theorem State.handled_r : (s.handled c d).r = s.r := State.put_r ..
@[simp] theorem State.handled_program : (s.handled c d).program = s.program := State.put_program ..
@[simp] theorem State.handled_schedule : (s.handled c d).schedule = s.schedule := State.put_schedule ..
@[simp] theorem State.handled_launch : (s.handled c d).launch = s.launch := State.put_launch ..
@[simp] theorem State.handled_draws : (s.handled c d).draws = s.draws := State.put_draws ..

end

/-! An engine that handles a byte, by case. -/

theorem Engine.onLast_of_idle {e : Engine} (hr : e.run = false) : e.onLast = false := by
  rw [Engine.onLast, hr, Bool.false_and]

theorem Engine.onLast_of_short {e : Engine} (hl : e.cur + 1 ≠ e.len) : e.onLast = false := by
  rw [Engine.onLast, decide_eq_false hl, Bool.and_false]

theorem Engine.onLast_of_last {e : Engine} (hr : e.run = true) (hl : e.cur + 1 = e.len) : e.onLast = true := by
  rw [Engine.onLast, hr, decide_eq_true hl, Bool.true_and]

theorem Engine.handled_of_idle {e : Engine} (hr : e.run = false) : e.handled = e := by
  cases e
  cases hr
  rfl

theorem Engine.handled_of_short {e : Engine} (hr : e.run = true) (hl : e.cur + 1 ≠ e.len) :
    e.handled = { e with cur := e.cur + 1 } := by
  simp [Engine.handled, Engine.onLast_of_short hl, hr]

theorem Engine.handled_of_last {e : Engine} (hr : e.run = true) (hl : e.cur + 1 = e.len) :
    e.handled = { e with cur := e.cur + 1, run := false } := by
  simp [Engine.handled, Engine.onLast_of_last hr hl, hr]

/-! A slot whose event is handled, by case (R174, R175), and what is logged. -/

section
variable {x : ChanState}

theorem ChanState.handlingLog_of_last {d : Dir} (h : (x.engine d).onLast = true) (c : Chan) :
    x.handlingLog c d = x.acknowledgment c d ++ [.cplt c d] := by
  rw [ChanState.handlingLog, if_pos h]

theorem ChanState.handlingLog_of_not_last {d : Dir} (h : (x.engine d).onLast = false) (c : Chan) :
    x.handlingLog c d = x.acknowledgment c d := by
  rw [ChanState.handlingLog, if_neg (by rw [h]; exact Bool.false_ne_true), List.append_nil]

theorem ChanState.handled_tx_of_idle (hr : x.tx.run = false) : x.handled .tx = { x with tc := false } := by
  simp [ChanState.handled, Engine.handled_of_idle hr, Engine.onLast_of_idle hr]

theorem ChanState.handled_tx_of_short (hr : x.tx.run = true) (hl : x.tx.cur + 1 ≠ x.tx.len) :
    x.handled .tx = { x with tc := false, tx := { x.tx with cur := x.tx.cur + 1 } } := by
  simp [ChanState.handled, Engine.handled_of_short hr hl, Engine.onLast_of_short hl]

theorem ChanState.handled_tx_of_last (hr : x.tx.run = true) (hl : x.tx.cur + 1 = x.tx.len) :
    x.handled .tx =
      { x with tc := false, tx := { x.tx with cur := x.tx.cur + 1, run := false }, txBusy := false } := by
  simp [ChanState.handled, Engine.handled_of_last hr hl, Engine.onLast_of_last hr hl]

theorem ChanState.handled_rx_of_idle (hr : x.rx.run = false) : x.handled .rx = { x with rxne := false } := by
  simp [ChanState.handled, Engine.handled_of_idle hr, Engine.onLast_of_idle hr]

theorem ChanState.handled_rx_of_short (hr : x.rx.run = true) (hl : x.rx.cur + 1 ≠ x.rx.len) :
    x.handled .rx = { x with rxne := false, rx := { x.rx with cur := x.rx.cur + 1 } } := by
  simp [ChanState.handled, Engine.handled_of_short hr hl, Engine.onLast_of_short hl]

theorem ChanState.handled_rx_of_last (hr : x.rx.run = true) (hl : x.rx.cur + 1 = x.rx.len) :
    x.handled .rx =
      { x with rxne := false, rx := { x.rx with cur := x.rx.cur + 1, run := false }, rxBusy := false } := by
  simp [ChanState.handled, Engine.handled_of_last hr hl, Engine.onLast_of_last hr hl]

end

/-! The steps. -/

theorem irqRequest_iff (x : ChanState) :
    irqRequest x = true ↔
      x.ven = true ∧ ((x.rxne = true ∧ x.ieRxne = true) ∨ (x.tc = true ∧ x.ieTc = true)) := by
  simp only [irqRequest, Bool.and_eq_true, Bool.or_eq_true]

/-- The terms of interrupt context are the interrupt steps of the two directions (R181). -/
theorem isrStepOf_of_context {i : Instr} (h : i.context = .interrupt) : ∃ d ch, i = isrStepOf d ch := by
  cases i with
  | irqTC ch => exact ⟨.tx, ch, rfl⟩
  | irqRXNE ch => exact ⟨.rx, ch, rfl⟩
  | _ => cases h

/-- Every case of an interrupt step has the one form. -/
theorem Effect.eq_handled {s t : State} {d : Dir} {ch : ChanId} {c : Chan} (he : Effect s (isrStepOf d ch) t)
    (hc : chanOfId ch = some c) : t = s.handled c d := by
  rw [State.handled]
  cases d with
  | tx =>
    cases he with
    | faulted _ _ _ hctx => cases hctx
    | txAdvanced _ c' hc' _ _ _ hr hl =>
      cases hc.symm.trans hc'
      rw [ChanState.handled_tx_of_short hr hl,
        ChanState.handlingLog_of_not_last (d := .tx) (Engine.onLast_of_short hl)]
      rfl
    | txCompleted _ c' hc' _ _ _ hr hl =>
      cases hc.symm.trans hc'
      rw [ChanState.handled_tx_of_last hr hl,
        ChanState.handlingLog_of_last (d := .tx) (Engine.onLast_of_last hr hl)]
      rfl
    | txSpurious _ c' hc' _ _ _ hr =>
      cases hc.symm.trans hc'
      rw [ChanState.handled_tx_of_idle hr,
        ChanState.handlingLog_of_not_last (d := .tx) (Engine.onLast_of_idle hr)]
      rfl
  | rx =>
    cases he with
    | faulted _ _ _ hctx => cases hctx
    | rxStored _ c' hc' _ _ _ hr _ hl =>
      cases hc.symm.trans hc'
      rw [ChanState.handled_rx_of_short hr hl,
        ChanState.handlingLog_of_not_last (d := .rx) (Engine.onLast_of_short hl),
        ChanState.storeInto, ChanState.acknowledgment, if_pos hr, if_pos hr]
    | rxCompleted _ c' hc' _ _ _ hr _ hl =>
      cases hc.symm.trans hc'
      rw [ChanState.handled_rx_of_last hr hl,
        ChanState.handlingLog_of_last (d := .rx) (Engine.onLast_of_last hr hl),
        ChanState.storeInto, ChanState.acknowledgment, if_pos hr, if_pos hr]
      rfl
    | rxDiscarded _ c' hc' _ _ _ hr =>
      cases hc.symm.trans hc'
      have hr' : ¬ (s.chan c).rx.run = true := by simp [hr]
      rw [ChanState.handled_rx_of_idle hr,
        ChanState.handlingLog_of_not_last (d := .rx) (Engine.onLast_of_idle hr),
        ChanState.storeInto, ChanState.acknowledgment, if_neg hr', if_neg hr']

/-- The interrupt step of a direction of a known channel answers exactly where it is enabled, and what it
answers (R174, R175). -/
theorem exec_isrStepOf_iff {s t : State} {d : Dir} {ch : ChanId} :
    exec (isrStepOf d ch) s = .next t ↔
      ∃ c, chanOfId ch = some c ∧ eventEnabled (isrStepOf d ch) c s = true ∧ t = s.handled c d := by
  obtain ⟨body, hbody⟩ :=
    exec_eq_eventStep (i := isrStepOf d ch) (ch := ch) (by cases d <;> rfl) (by cases d <;> rfl)
  constructor
  · intro ht
    obtain ⟨c, hc, henabled, -⟩ := eventStep_next ((hbody s).symm.trans ht)
    exact ⟨c, hc, henabled, (exec_effect ht).eq_handled hc⟩
  · rintro ⟨c, hc, henabled, rfl⟩
    have ht := (hbody s).trans (eventStep_of_enabled hc henabled body)
    rw [ht, (exec_effect ht).eq_handled hc]

/-- An enabled `IrqTC`, in the one form (R174). -/
theorem exec_irqTC_handles {s : State} {ch : ChanId} {c : Chan} (hc : chanOfId ch = some c)
    (he : irqTCEnabled c s = true) : exec (.irqTC ch) s = .next (s.handled c .tx) :=
  exec_isrStepOf_iff (d := .tx).2 ⟨c, hc, he, rfl⟩

end Sys2Proof.Machine
end

section
/-! SUPPORT. Two interrupt steps (R171): each leaves what the other reads, and the two together write the same slots and
the same memory in either order. -/

namespace Sys2Proof.Machine

open Sys2Proof.Safety

/-- Writes of bytes of memory at two addresses commute. -/
theorem Memory.write_comm {m : Memory} (h : m.wf) {a b : Nat} (ha : a < 2 ^ 32) (hb : b < 2 ^ 32) (hab : a ≠ b)
    (v w : Byte) : (m.write a v).write b w = (m.write b w).write a v := by
  have hwa := Memory.wf_write h ha v
  have hwb := Memory.wf_write h hb w
  refine Memory.eq_of_read_eq (Memory.wf_write hwa hb w) (Memory.wf_write hwb ha v) fun k => ?_
  rw [Memory.read_write hwa, Memory.read_write h, Memory.read_write hwb, Memory.read_write h]
  by_cases hk : k = a
  · rw [if_pos hk, if_pos hk, if_neg (hk ▸ hab)]
  · rw [if_neg hk, if_neg hk]

/-- A state is its two slots and the elements of no channel. -/
theorem State.ext_of_chan {s t : State} (hchan : ∀ c, s.chan c = t.chan c) (hfault : s.fault = t.fault)
    (hmem : s.mem = t.mem) (htpc : s.tpc = t.tpc) (hr : s.r = t.r) (hhist : s.hist = t.hist)
    (hprogram : s.program = t.program) (hschedule : s.schedule = t.schedule) (hlaunch : s.launch = t.launch)
    (hdraws : s.draws = t.draws) : s = t := by
  have h1 : s.ch1 = t.ch1 := hchan .ch1
  have h2 : s.ch2 = t.ch2 := hchan .ch2
  exact (State.mk.injEq ..).mpr ⟨h1, h2, hfault, hmem, htpc, hr, hhist, hprogram, hschedule, hlaunch, hdraws⟩

/-- The interrupt step of direction `d` reads the same in both slots. -/
def HandlerSame (d : Dir) (x y : ChanState) : Prop :=
  match d with
  | .tx => y.tx = x.tx ∧ y.tc = x.tc ∧ y.ieTc = x.ieTc ∧ y.ven = x.ven
  | .rx => y.rx = x.rx ∧ y.rxne = x.rxne ∧ y.ieRxne = x.ieRxne ∧ y.ven = x.ven ∧ y.rdr = x.rdr

theorem HandlerSame.refl (d : Dir) (x : ChanState) : HandlerSame d x x := by
  cases d with
  | tx => exact ⟨rfl, rfl, rfl, rfl⟩
  | rx => exact ⟨rfl, rfl, rfl, rfl, rfl⟩

theorem HandlerSame.storeInto {d : Dir} {x y : ChanState} (h : HandlerSame d x y) (m : Memory) :
    y.storeInto d m = x.storeInto d m := by
  cases d with
  | tx => rfl
  | rx =>
    obtain ⟨hrx, -, -, -, hrdr⟩ := h
    rw [ChanState.storeInto, ChanState.storeInto, hrx, hrdr]

theorem HandlerSame.handlingLog {d : Dir} {x y : ChanState} (h : HandlerSame d x y) (c : Chan) :
    y.handlingLog c d = x.handlingLog c d := by
  cases d with
  | tx =>
    obtain ⟨htx, -⟩ := h
    rw [ChanState.handlingLog, ChanState.handlingLog, ChanState.engine_tx, ChanState.engine_tx, htx]
    rfl
  | rx =>
    obtain ⟨hrx, -, -, -, hrdr⟩ := h
    rw [ChanState.handlingLog, ChanState.handlingLog, ChanState.engine_rx, ChanState.engine_rx,
      ChanState.acknowledgment, ChanState.acknowledgment, hrx, hrdr]

theorem HandlerSame.enabled {s t : State} {c : Chan} {d : Dir} (h : HandlerSame d (s.chan c) (t.chan c))
    (hlaunch : t.launch = s.launch) (ch : ChanId) :
    eventEnabled (isrStepOf d ch) c t = eventEnabled (isrStepOf d ch) c s := by
  cases d with
  | tx =>
    obtain ⟨-, htc, hie, hven⟩ := h
    simp only [isrStepOf, eventEnabled, irqTCEnabled, htc, hie, hven]
  | rx =>
    obtain ⟨hrx, hrxne, hie, hven, -⟩ := h
    simp only [isrStepOf, eventEnabled, irqRXNEEnabled, hrx, hrxne, hie, hven, admitted_congr hlaunch]

/-- The two directions write disjoint elements of a slot. -/
theorem ChanState.handled_comm (x : ChanState) (d d' : Dir) : (x.handled d).handled d' = (x.handled d').handled d := by
  cases d <;> cases d' <;> rfl

/-- What the interrupt step of one direction reads, that of the other does not write. -/
theorem HandlerSame.of_other {d d' : Dir} (h : d' ≠ d) (x : ChanState) : HandlerSame d' x (x.handled d) := by
  cases d' with
  | tx =>
    cases d with
    | tx => exact absurd rfl h
    | rx => exact ⟨rfl, rfl, rfl, rfl⟩
  | rx =>
    cases d with
    | tx => exact ⟨rfl, rfl, rfl, rfl, rfl⟩
    | rx => exact absurd rfl h

section
variable {s : State} {c c' : Chan} {d d' : Dir}

/-- An interrupt step leaves what any other one reads. -/
theorem State.handled_handlerSame (hne : ¬ (c' = c ∧ d' = d)) (s : State) :
    HandlerSame d' (s.chan c') ((s.handled c d).chan c') := by
  rw [State.handled_chan]
  split
  · next hc => exact .of_other (fun hd => hne ⟨hc, hd⟩) _
  · exact .refl ..

/-- An interrupt step that is enabled can still be taken after any other one. -/
theorem exec_isrStepOf_after {ch' : ChanId} (hc' : chanOfId ch' = some c') (hne : ¬ (c' = c ∧ d' = d))
    (he' : eventEnabled (isrStepOf d' ch') c' s = true) :
    exec (isrStepOf d' ch') (s.handled c d) = .next ((s.handled c d).handled c' d') := by
  have hsame := State.handled_handlerSame hne s
  exact exec_isrStepOf_iff.2 ⟨c', hc', (hsame.enabled (State.handled_launch ..) ch').trans he', rfl⟩

/-- Two interrupt steps leave the same slots in either order. -/
theorem State.handled_handled_chan (s : State) (c c' k : Chan) (d d' : Dir) :
    ((s.handled c d).handled c' d').chan k = ((s.handled c' d').handled c d).chan k := by
  simp only [State.handled_chan]
  by_cases hc : k = c
  · by_cases hc' : k = c'
    · simp only [if_pos hc, if_pos hc']
      exact ChanState.handled_comm ..
    · simp only [if_pos hc, if_neg hc']
  · simp only [if_neg hc]

theorem address_lt_of_irqRXNEEnabled (he : irqRXNEEnabled c s = true) (hr : (s.chan c).rx.run = true) :
    (s.chan c).rx.address < 2 ^ 32 := by
  obtain ⟨-, -, -, hidle | hadm⟩ := (irqRXNEEnabled_iff c s).1 he
  · cases hidle.symm.trans hr
  · exact admitted_lt hadm

/-- Two enabled interrupt steps leave the same memory in either order, unless both store, to one address (log 20). -/
theorem State.storeInto_comm (hm : s.mem.wf) {ch ch' : ChanId} (he : eventEnabled (isrStepOf d ch) c s = true)
    (he' : eventEnabled (isrStepOf d' ch') c' s = true)
    (hapart : d = .rx → d' = .rx → (s.chan c).rx.run = true → (s.chan c').rx.run = true →
      (s.chan c).rx.address ≠ (s.chan c').rx.address) :
    (s.chan c').storeInto d' ((s.chan c).storeInto d s.mem) =
      (s.chan c).storeInto d ((s.chan c').storeInto d' s.mem) := by
  cases d with
  | tx => rfl
  | rx =>
    cases d' with
    | tx => rfl
    | rx =>
      simp only [ChanState.storeInto]
      by_cases hr : (s.chan c).rx.run = true
      · by_cases hr' : (s.chan c').rx.run = true
        · simp only [if_pos hr, if_pos hr']
          exact Memory.write_comm hm (address_lt_of_irqRXNEEnabled he hr) (address_lt_of_irqRXNEEnabled he' hr')
            (hapart rfl rfl hr hr') _ _
        · simp only [if_neg hr']
      · simp only [if_neg hr]

/-- Two interrupt steps that leave the same memory in either order leave the same state but for the history, and log the
same events (R171). -/
theorem State.handled_comm (hne : ¬ (c' = c ∧ d' = d))
    (hmem : (s.chan c').storeInto d' ((s.chan c).storeInto d s.mem) =
      (s.chan c).storeInto d ((s.chan c').storeInto d' s.mem)) :
    { (s.handled c d).handled c' d' with hist := ((s.handled c' d').handled c d).hist } =
        (s.handled c' d').handled c d ∧
      ((s.handled c d).handled c' d').hist.Perm ((s.handled c' d').handled c d).hist := by
  have hsame := State.handled_handlerSame hne s
  have hne' : ¬ (c = c' ∧ d = d') := fun ⟨hc, hd⟩ => hne ⟨hc.symm, hd.symm⟩
  have hsame' := State.handled_handlerSame hne' s
  constructor
  · refine State.ext_of_chan (fun k => ?_) ?_ ?_ ?_ ?_ rfl ?_ ?_ ?_ ?_
    · rw [State.chan_mk, State.handled_handled_chan]
    · simp only [State.handled_fault]
    · simp only [State.handled_mem, hsame.storeInto, hsame'.storeInto, hmem]
    all_goals simp only [State.handled_tpc, State.handled_r, State.handled_program, State.handled_schedule,
      State.handled_launch, State.handled_draws]
  · simp only [State.handled_hist, hsame.handlingLog, hsame'.handlingLog, List.append_assoc]
    exact List.perm_append_comm.append_left s.hist

end

end Sys2Proof.Machine
end

section
/-! The statements of 60_exceptions.md sections 2 and 3. -/

namespace Sys2Proof.Safety

open Sys2Proof.Machine

/-- Settles O36: a pending source that is enabled makes its own step enabled, the receive one where the byte can go. -/
theorem requestedInterruptCanBeTaken : Obligations.RequestedInterruptCanBeTaken := by
  intro s ch c hc _
  refine ⟨irqRequest_iff _, fun hrequest hadm => ?_⟩
  obtain ⟨hven, ⟨hrxne, hie⟩ | ⟨htc, hie⟩⟩ := (irqRequest_iff _).1 hrequest
  · refine .inr (exec_irqRXNE_next hc ((irqRXNEEnabled_iff c s).2 ⟨hven, hie, hrxne, ?_⟩))
    cases hr : (s.chan c).rx.run with
    | false => exact .inl rfl
    | true => exact .inr (hadm hr)
  · exact .inl ⟨_, exec_irqTC_handles hc ((irqTCEnabled_iff c s).2 ⟨hven, hie, htc⟩)⟩

/-- Settles O37: neither step writes what the other reads, and together they write the same in either order. -/
theorem isrStepsCommute : Obligations.IsrStepsCommute := by
  intro s t u i j _ hm hi hj hne hapart ht hu
  obtain ⟨d, ch, rfl⟩ := isrStepOf_of_context hi
  obtain ⟨d', ch', rfl⟩ := isrStepOf_of_context hj
  obtain ⟨c, hc, he, rfl⟩ := exec_isrStepOf_iff.1 ht
  obtain ⟨c', hc', he', rfl⟩ := exec_isrStepOf_iff.1 hu
  have hother : ¬ (c' = c ∧ d' = d) := by
    rintro ⟨rfl, rfl⟩
    exact hne (by rw [chanOfId_some hc, chanOfId_some hc'])
  have hmem := State.storeInto_comm hm he he' fun hd hd' hr hr' =>
    hapart ch ch' c c' (by rw [hd]; rfl) (by rw [hd']; rfl) hc hc' hr hr'
  exact ⟨_, _, exec_isrStepOf_after hc' hother he',
    exec_isrStepOf_after hc (fun ⟨hc, hd⟩ => hother ⟨hc.symm, hd.symm⟩) he, State.handled_comm hother hmem⟩

/-- Settles O32: the transmit step in the one form, whose slot and log the cursor decides. -/
theorem irqTCAdvancesTheTransmitCursor : Obligations.IrqTCAdvancesTheTransmitCursor := by
  intro s ch c hc _ hven hie htc
  refine ⟨_, exec_irqTC_handles hc ((irqTCEnabled_iff c s).2 ⟨hven, hie, htc⟩),
    State.put_sameElsewhere, State.put_taskSame, State.handled_draws .., ?_⟩
  rw [State.handled_chan, if_pos rfl, State.handled_hist]
  refine ⟨fun hr hl => ⟨ChanState.handled_tx_of_last hr hl, ?_⟩,
    fun hr hl => ⟨ChanState.handled_tx_of_short hr hl, ?_⟩, fun hr => ⟨ChanState.handled_tx_of_idle hr, ?_⟩⟩
  · rw [ChanState.handlingLog_of_last (d := .tx) (Engine.onLast_of_last hr hl)]
    rfl
  · rw [ChanState.handlingLog_of_not_last (d := .tx) (Engine.onLast_of_short hl)]
    rfl
  · rw [ChanState.handlingLog_of_not_last (d := .tx) (Engine.onLast_of_idle hr)]
    rfl

end Sys2Proof.Safety
end

section
/-! SUPPORT. Transfers along an endless run (R212), for both directions at once: what the move of a line does to a transfer
under way, and why under fairness its flag is cleared. -/

namespace Sys2Proof.Safety

open Sys2Proof.Machine

/-! The invariant of a slot (45_state_machine.md section 2), for both directions at once. -/

/-- The flag equals engagement, in either direction (R150). -/
theorem ChanOk.flag {x : ChanState} (h : ChanOk x) (d : Dir) : x.busy d = (x.engine d).run := by
  cases d with
  | tx => exact h.txFlag
  | rx => exact h.rxFlag

/-- An engaged engine is well formed, in either direction (R151). -/
theorem ChanOk.engineOk {x : ChanState} (h : ChanOk x) (d : Dir) : EngineOk (x.engine d) := by
  cases d with
  | tx => exact h.txEngine
  | rx => exact h.rxEngine

/-- An engaged engine of either direction is one of an initialized channel (R153). -/
theorem ChanOk.inited_of_run {x : ChanState} (h : ChanOk x) {d : Dir} (hr : (x.engine d).run = true) : x.inited = true := by
  cases d with
  | tx => exact ChanState.inited_of_tx_run h hr
  | rx => exact ChanState.inited_of_rx_run h hr

end Sys2Proof.Safety

namespace Sys2Proof.Machine

open Sys2Proof.Safety

/-! The move of a line, from what a step does. -/

section
variable {l : Line} {s t : State} (h : move l s = .next t)
include h

theorem move_launch : t.launch = s.launch := by
  rw [← step_listNext s l] at h
  exact (step_launch h :)

theorem move_chanOk {c : Chan} (hok : ChanOk (s.chan c)) : ChanOk (t.chan c) := by
  rw [← step_listNext s l] at h
  exact step_chanOk h (by rwa [State.chan_withSchedule])

end

theorem move_of_lineRuns {l : Line} {i : Instr} (h : LineRuns l i) (s : State) : move l s = exec i s := by
  obtain ⟨p, rfl, hd⟩ := h
  exact move_event_of_decoded hd

/-! A transfer of one direction of a slot. -/

/-- The interrupt source that serves a direction is pending (R36, R37). -/
def ChanState.pending (x : ChanState) (d : Dir) : Bool :=
  match d with
  | .tx => x.tc
  | .rx => x.rxne

@[simp] theorem ChanState.handled_engine (x : ChanState) (d : Dir) : (x.handled d).engine d = (x.engine d).handled := by
  cases d <;> rfl

/-- If slot `x` and slot `y` after it both have the flag of direction `d` set, the engine is as it was, and a pending event
of the direction is still pending. -/
def WaitKept (d : Dir) (x y : ChanState) : Prop :=
  x.busy d = true → y.busy d = true → y.engine d = x.engine d ∧ (x.pending d = true → y.pending d = true)

theorem WaitKept.refl (d : Dir) (x : ChanState) : WaitKept d x x := fun _ _ => ⟨rfl, id⟩

/-- An instruction that is no interrupt step of direction `d` of channel `c` leaves a transfer that it does not end waiting. -/
theorem Effect.waitKept {s t : State} {i : Instr} {c : Chan} {d : Dir} (he : Effect s i t)
    (hown : ¬ ∃ ch, i = isrStepOf d ch ∧ chanOfId ch = some c) : WaitKept d (s.chan c) (t.chan c) := by
  by_cases hsame : t.chan c = s.chan c
  · rw [hsame]; exact .refl d _
  cases he with
  | faulted => exact absurd (Faulted_chan ..) hsame
  | branched => exact absurd (State.chan_mk ..) hsame
  | initialised =>
    exact State.put_chan_rel (fun _ hb => by cases d <;> cases hb) (WaitKept.refl d) c
  | sendArmed _ _ _ _ _ _ _ _ _ hclear =>
    refine State.put_chan_rel (fun hb _ => ?_) (WaitKept.refl d) c
    cases d with
    | tx => cases hclear.symm.trans hb
    | rx => exact ⟨rfl, id⟩
  | receiveArmed _ _ _ _ _ _ _ _ _ hclear =>
    refine State.put_chan_rel (fun hb _ => ?_) (WaitKept.refl d) c
    cases d with
    | tx => exact ⟨rfl, id⟩
    | rx => cases hclear.symm.trans hb
  | sendAborted | txForced =>
    refine State.put_chan_rel (fun _ hb => ?_) (WaitKept.refl d) c
    cases d with
    | tx => cases hb
    | rx => exact ⟨rfl, id⟩
  | receiveAborted | rxForced =>
    refine State.put_chan_rel (fun _ hb => ?_) (WaitKept.refl d) c
    cases d with
    | tx => exact ⟨rfl, id⟩
    | rx => cases hb
  | txAdvanced ch _ hc | txCompleted ch _ hc | txSpurious ch _ hc =>
    cases d with
    | tx => exact absurd ⟨ch, rfl, State.put_chan_ne hsame ▸ hc⟩ hown
    | rx => exact State.put_chan_rel (fun _ _ => ⟨rfl, id⟩) (WaitKept.refl .rx) c
  | rxStored ch _ hc | rxCompleted ch _ hc | rxDiscarded ch _ hc =>
    cases d with
    | tx => exact State.put_chan_rel (fun _ _ => ⟨rfl, id⟩) (WaitKept.refl .tx) c
    | rx => exact absurd ⟨ch, rfl, State.put_chan_ne hsame ▸ hc⟩ hown
  | emitted =>
    refine State.put_chan_rel (fun _ _ => ?_) (WaitKept.refl d) c
    cases d with
    | tx => exact ⟨rfl, fun _ => rfl⟩
    | rx => exact ⟨rfl, id⟩
  | arrived =>
    refine State.put_chan_rel (fun _ _ => ?_) (WaitKept.refl d) c
    cases d with
    | tx => exact ⟨rfl, id⟩
    | rx => exact ⟨rfl, fun _ => rfl⟩
  | _ =>
    refine State.put_chan_rel (fun _ _ => ?_) (WaitKept.refl d) c
    cases d <;> exact ⟨rfl, id⟩

/-- The move of a line is the interrupt step of direction `d` of channel `c`, or leaves a transfer that it does not end
waiting. -/
theorem move_transfer_cases {l : Line} {s t : State} (h : move l s = .next t) (c : Chan) (d : Dir) :
    t.chan c = (s.chan c).handled d ∨ WaitKept d (s.chan c) (t.chan c) := by
  obtain ⟨i, -, he⟩ | ⟨p, -, -, rfl⟩ | ⟨a, v, -, rfl⟩ := move_effect h
  · by_cases hown : ∃ ch, i = isrStepOf d ch ∧ chanOfId ch = some c
    · obtain ⟨ch, rfl, hc⟩ := hown
      rw [he.eq_handled hc, State.handled_chan, if_pos rfl]
      exact .inl rfl
    · exact .inr (he.waitKept hown)
  · rw [Faulted_chan]; exact .inr (.refl d _)
  · rw [outsideWrite_chan]; exact .inr (.refl d _)

/-- A transfer of direction `d` of channel `c` is under way, and every address of its buffer is admitted. -/
structure UnderWay (c : Chan) (d : Dir) (s : State) : Prop where
  ok : ChanOk (s.chan c)
  busy : (s.chan c).busy d = true
  buffer : ∀ i, i < ((s.chan c).engine d).len.toNat → s.admitted (((s.chan c).engine d).ptr.toNat + i) = true

/-- How many bytes of the transfer of direction `d` the cursor has not counted yet. -/
def ChanState.left (x : ChanState) (d : Dir) : Nat := (x.engine d).len.toNat - (x.engine d).cur.toNat

section
variable {c : Chan} {d : Dir} {s t : State} (h : UnderWay c d s)
include h

theorem UnderWay.run : ((s.chan c).engine d).run = true := (h.ok.flag d).symm.trans h.busy

theorem UnderWay.inited : (s.chan c).inited = true := h.ok.inited_of_run h.run

theorem UnderWay.address_admitted : s.admitted ((s.chan c).engine d).address = true := by
  obtain ⟨-, hlt, -⟩ := h.ok.engineOk d h.run
  exact h.buffer _ hlt

/-- With its event pending the interrupt step of the direction is enabled (R174, R175). -/
theorem UnderWay.isr_enabled (hp : (s.chan c).pending d = true) :
    eventEnabled (isrStepOf d (idOfChan c)) c s = true := by
  obtain ⟨hrxne, htc, hven⟩ := h.ok.enabled h.inited
  cases d with
  | tx => exact (irqTCEnabled_iff c s).2 ⟨hven, htc, hp⟩
  | rx => exact (irqRXNEEnabled_iff c s).2 ⟨hven, hrxne, hp, .inr h.address_admitted⟩

/-- The interrupt step of the direction leaves one byte less. -/
theorem UnderWay.left_handled : ((s.chan c).handled d).left d < (s.chan c).left d := by
  obtain ⟨-, hlt, -⟩ := h.ok.engineOk d h.run
  have hcur : ((s.chan c).engine d).handled.cur = ((s.chan c).engine d).cur + 1 := if_pos h.run
  have hlen : ((s.chan c).engine d).handled.len = ((s.chan c).engine d).len := rfl
  rw [ChanState.left, ChanState.handled_engine, hcur, hlen, cursor_succ_toNat (h.ok.engineOk d) h.run, ChanState.left]
  omega

/-- A move that leaves the flag set keeps the transfer under way. -/
theorem UnderWay.move_kept {l : Line} (hm : move l s = .next t) (hb : (t.chan c).busy d = true) : UnderWay c d t := by
  have hbuffer : ((t.chan c).engine d).ptr = ((s.chan c).engine d).ptr ∧
      ((t.chan c).engine d).len = ((s.chan c).engine d).len := by
    obtain hown | hkept := move_transfer_cases hm c d
    · rw [hown, ChanState.handled_engine]; exact ⟨rfl, rfl⟩
    · obtain ⟨hengine, -⟩ := hkept h.busy hb
      rw [hengine]; exact ⟨rfl, rfl⟩
  obtain ⟨hptr, hlen⟩ := hbuffer
  refine ⟨move_chanOk hm h.ok, hb, ?_⟩
  rw [hptr, hlen]
  exact fun i hi => (admitted_congr (move_launch hm) _).trans (h.buffer i hi)

/-- No move that leaves the flag set leaves more bytes. -/
theorem UnderWay.left_le {l : Line} (hm : move l s = .next t) (hb : (t.chan c).busy d = true) :
    (t.chan c).left d ≤ (s.chan c).left d := by
  obtain hown | hkept := move_transfer_cases hm c d
  · rw [hown]; exact Nat.le_of_lt h.left_handled
  · obtain ⟨hengine, -⟩ := hkept h.busy hb
    rw [ChanState.left, hengine, ChanState.left]

end

/-! The two events that make a direction's event pending. -/

/-- `TxEmit` leaves its event pending (R135). -/
theorem Effect.tc_of_txEmit {s t : State} {ch : ChanId} {c : Chan} (he : Effect s (.txEmit ch) t)
    (hc : chanOfId ch = some c) : (t.chan c).tc = true := by
  cases he with
  | faulted _ _ _ hctx => cases hctx
  | emitted _ c' hc' =>
    cases hc.symm.trans hc'
    rw [State.put_chan_same]

/-- `RxArrive` leaves its event pending, overrun or not (R137). -/
theorem Effect.rxne_of_rxArrive {s t : State} {ch : ChanId} {c : Chan} {b : Byte} (he : Effect s (.rxArrive ch b) t)
    (hc : chanOfId ch = some c) : (t.chan c).rxne = true := by
  cases he with
  | faulted _ _ _ hctx => cases hctx
  | arrived _ c' _ hc' =>
    cases hc.symm.trans hc'
    rw [State.put_chan_same]
  | overran _ c' _ hc' _ hn =>
    cases hc.symm.trans hc'
    rw [State.put_chan_same]
    exact hn

end Sys2Proof.Machine

namespace Sys2Proof.Safety

open Sys2Proof.Machine

/-! A transfer along an endless run. -/

/-- Weak fairness of the interrupt step of direction `d` of channel `c` (R212). -/
def FairIsr (c : Chan) (d : Dir) (ln : Nat → Line) (st : Nat → State) : Prop :=
  ∀ n, (∀ m, n ≤ m → eventEnabled (isrStepOf d (idOfChan c)) c (st m) = true) →
    ∃ m, n ≤ m ∧ LineRuns (ln m) (isrStepOf d (idOfChan c))

theorem FairTransmit.fairIsr {c : Chan} {ln : Nat → Line} {st : Nat → State} (h : FairTransmit c ln st) :
    FairIsr c .tx ln st := h.irq

theorem FairReceive.fairIsr {c : Chan} {ln : Nat → Line} {st : Nat → State} (h : FairReceive c ln st) :
    FairIsr c .rx ln st := h.irq

section
variable {c : Chan} {d : Dir} {ln : Nat → Line} {st : Nat → State} (hrun : Endless ln st)
include hrun

/-- What an endless run does by a line that runs an event is the event's meaning. -/
theorem Endless.exec_of_lineRuns {n : Nat} {i : Instr} (h : LineRuns (ln n) i) : exec i (st n) = .next (st (n + 1)) :=
  (move_of_lineRuns h (st n)).symm.trans (hrun.moves n)

section
variable (hbusy : ∀ n, ((st n).chan c).busy d = true)
include hbusy

theorem Endless.underWay (h0 : UnderWay c d (st 0)) (n : Nat) : UnderWay c d (st n) := by
  induction n with
  | zero => exact h0
  | succ n ih => exact ih.move_kept (hrun.moves n) (hbusy (n + 1))

/-- While the flag stays set the bytes left never grow and the interrupt step takes one off, so from the state with the
fewest left on, it is not taken. -/
theorem Endless.eventually_not_handled (h0 : UnderWay c d (st 0)) :
    ∃ n, ∀ m, n ≤ m → (st (m + 1)).chan c ≠ ((st m).chan c).handled d := by
  have hway := hrun.underWay hbusy h0
  have hanti : Antitone fun n => ((st n).chan c).left d :=
    antitone_nat_of_succ_le fun n => (hway n).left_le (hrun.moves n) (hbusy (n + 1))
  refine ⟨Function.argmin fun n => ((st n).chan c).left d, fun m hm hhandled => ?_⟩
  have hless : ((st (m + 1)).chan c).left d < ((st m).chan c).left d := hhandled ▸ (hway m).left_handled
  have hmin := Function.argmin_le (fun n => ((st n).chan c).left d) (m + 1)
  exact absurd (hless.trans_le (hanti hm)) (Nat.not_lt.2 hmin)

/-- Under fairness of its interrupt step a transfer whose flag is never cleared has no event pending from some point on: one
that is would keep the step enabled, and it would be taken. -/
theorem Endless.eventually_not_pending (hfair : FairIsr c d ln st) (h0 : UnderWay c d (st 0)) :
    ∃ n, ∀ m, n ≤ m → ((st m).chan c).pending d = false := by
  have hway := hrun.underWay hbusy h0
  obtain ⟨n, hnot⟩ := hrun.eventually_not_handled hbusy h0
  refine ⟨n, fun m hm => Bool.eq_false_of_not_eq_true fun hpending => ?_⟩
  have hstays : ∀ k, m ≤ k → ((st k).chan c).pending d = true := fun k hk => by
    induction k, hk using Nat.le_induction with
    | base => exact hpending
    | succ k hk ih =>
      have hwait := (move_transfer_cases (hrun.moves k) c d).resolve_left (hnot k (hm.trans hk))
      exact (hwait (hbusy k) (hbusy (k + 1))).2 ih
  obtain ⟨k, hk, hline⟩ := hfair m fun k hk => (hway k).isr_enabled (hstays k hk)
  have he := exec_effect (hrun.exec_of_lineRuns hline)
  refine hnot k (hm.trans hk) ?_
  rw [he.eq_handled (chanOfId_idOfChan c), State.handled_chan, if_pos rfl]

end

/-- Under fairness of its interrupt step a transfer ends, if an event becomes pending again whenever it is under way and none
is. -/
theorem Endless.flag_cleared (hfair : FairIsr c d ln st) (h0 : UnderWay c d (st 0))
    (hagain : ∀ n, (∀ m, n ≤ m → UnderWay c d (st m) ∧ ((st m).chan c).pending d = false) →
      ∃ m, n ≤ m ∧ ((st m).chan c).pending d = true) :
    ∃ n, ((st n).chan c).busy d = false := by
  by_contra hend
  have hbusy : ∀ n, ((st n).chan c).busy d = true := fun n => Bool.eq_true_of_not_eq_false fun hclear => hend ⟨n, hclear⟩
  obtain ⟨n, hidle⟩ := hrun.eventually_not_pending hbusy hfair h0
  obtain ⟨m, hm, hpending⟩ := hagain n fun m hm => ⟨hrun.underWay hbusy h0 m, hidle m hm⟩
  cases (hidle m hm).symm.trans hpending

end

end Sys2Proof.Safety
end

section
/-! SUPPORT. The events that run in a final state (R213). -/

namespace Sys2Proof.Machine

open Sys2Proof.Safety

/-- An event that runs is enabled on its channel (R89). -/
theorem eventEnabled_of_exec {s t : State} {i : Instr} (hi : i.isEvent = true) (h : exec i s = .next t) :
    ∃ c, eventEnabled i c s = true := by
  obtain ⟨ch, hch⟩ : ∃ ch, i.channel = some ch := by
    cases i with
    | brz => cases hi
    | _ => exact ⟨_, rfl⟩
  obtain ⟨body, hbody⟩ := exec_eq_eventStep (eq_of_beq hi) hch
  obtain ⟨c, -, he, -⟩ := eventStep_next ((hbody s).symm.trans h)
  exact ⟨c, he⟩

/-- The only events that run in a final state are an arriving byte and the forced ones: the others need an engaged transmit
or a requested interrupt. -/
theorem event_of_final {s t : State} {i : Instr} (hfinal : Final s) (hi : i.isEvent = true) (h : exec i s = .next t) :
    (∃ ch b, i = .rxArrive ch b) ∨ ∃ ch, i = .forceTxCplt ch ∨ i = .forceRxCplt ch := by
  obtain ⟨-, -, hquiet⟩ := hfinal
  obtain ⟨c, he⟩ := eventEnabled_of_exec hi h
  cases i with
  | rxArrive ch b => exact .inl ⟨ch, b, rfl⟩
  | forceTxCplt ch => exact .inr ⟨ch, .inl rfl⟩
  | forceRxCplt ch => exact .inr ⟨ch, .inr rfl⟩
  | txEmit ch =>
    obtain ⟨-, hr, -⟩ := (txEmitEnabled_iff c s).1 he
    cases (hquiet c).2.symm.trans hr
  | irqTC ch =>
    obtain ⟨hven, hie, htc⟩ := (irqTCEnabled_iff c s).1 he
    cases (hquiet c).1.symm.trans ((irqRequest_iff _).2 ⟨hven, .inr ⟨htc, hie⟩⟩)
  | irqRXNE ch =>
    obtain ⟨hven, hie, hrxne, -⟩ := (irqRXNEEnabled_iff c s).1 he
    cases (hquiet c).1.symm.trans ((irqRequest_iff _).2 ⟨hven, .inl ⟨hrxne, hie⟩⟩)
  | initialise | send | receive | isSendComplete | isReceiveComplete | abortSend | abortReceive | brz => cases hi

end Sys2Proof.Machine
end

section
/-! The statements of 70_reset_and_hazards.md. -/

namespace Sys2Proof.Safety

open Sys2Proof.Machine

/-- Settles O53: a task line finds no statement left, and an event line runs one of the events that a final state admits. -/
theorem finalStateMovesOnlyOnInput : Obligations.FinalStateMovesOnlyOnInput := by
  intro s t l _ hfinal hmove
  obtain ⟨i, hl, hexec⟩ | ⟨p, rfl, -, hp, -⟩ | ⟨a, v, rfl, -⟩ := move_next hmove
  · obtain ⟨-, -, hlt, -⟩ | ⟨p, rfl, hd, hi⟩ := fetchLine_ok hl
    · exact absurd hfinal.1 (Nat.ne_of_lt hlt)
    · obtain ⟨ch, b, rfl⟩ | ⟨ch, rfl | rfl⟩ := event_of_final hfinal hi hexec
      · exact .inl ⟨ch, b, p, rfl, hd⟩
      · exact .inr (.inl ⟨ch, .inl ⟨p, rfl, hd⟩⟩)
      · exact .inr (.inl ⟨ch, .inr ⟨p, rfl, hd⟩⟩)
  · rw [hfinal.1, List.getElem?_length] at hp; cases hp
  · exact .inr (.inr ⟨a, v, rfl⟩)

/-- Settles O58: while no event is pending `TxEmit` stays enabled, so it is taken, and its event is pending. -/
theorem fairTransmitEnds : Obligations.FairTransmitEnds := by
  intro ln st c hrun hfair hready hinv hr hbuffer
  have hok := hinv.chans c hready
  refine hrun.flag_cleared (d := .tx) hfair.fairIsr ⟨hok, hok.txFlag.trans hr, hbuffer⟩ fun n hwaits => ?_
  obtain ⟨m, hm, hline⟩ := hfair.emit n fun m hm => by
    obtain ⟨hway, hidle⟩ := hwaits m hm
    exact (txEmitEnabled_iff c (st m)).2 ⟨hway.inited, hway.run, hidle, hway.address_admitted⟩
  exact ⟨m + 1, Nat.le_succ_of_le hm, (exec_effect (hrun.exec_of_lineRuns hline)).tc_of_txEmit (chanOfId_idOfChan c)⟩

/-- Settles O59: bytes keep arriving, and each leaves its event pending. -/
theorem fairReceiveEndsIfBytesKeepArriving : Obligations.FairReceiveEndsIfBytesKeepArriving := by
  intro ln st c hrun hfair hready hinv hr hbuffer harrivals
  have hok := hinv.chans c hready
  refine hrun.flag_cleared (d := .rx) hfair.fairIsr ⟨hok, hok.rxFlag.trans hr, hbuffer⟩ fun n _ => ?_
  obtain ⟨m, b, hm, hline⟩ := harrivals n
  exact ⟨m + 1, Nat.le_succ_of_le hm, (exec_effect (hrun.exec_of_lineRuns hline)).rxne_of_rxArrive (chanOfId_idOfChan c)⟩

end Sys2Proof.Safety
end
